-- ==== Sys2Proof/Word.lean ====
section
/-! DEFINITION. The two machine words of the P1 Frame Engine: the byte of the packet buffer and the
32-bit word of the register interface (spec/00_scope.md R6). -/

namespace Sys2Proof

/-- A byte, an 8-bit value 0x00..0xFF (00_scope.md R6). -/
abbrev Byte := BitVec 8

/-- A 32-bit register or bus word (10_state.md R23). -/
abbrev Word := BitVec 32

end Sys2Proof
end

