-- ==== Sys2Proof/Config.lean ====
section
/-! DEFINITION. The implementation parameters of spec/00_scope.md R4, as plain data, and the free
values of the model (opaque constants, of which nothing can be proved).

The parameters are a field of the state (`State.cfg`), so a statement about every state is a
statement about every configuration; `Config.defaults` is the column "default" of R4. The parameter
LATENCY is the place of the engine's turn in the schedule (`State.sched`). -/

namespace Sys2Proof

/-- `CRC_ORDER`, the byte order of the checksum field on the wire (00_scope.md R4, R56). -/
inductive CrcOrder where
  | le
  | be
deriving DecidableEq, Repr

/-- `CRC_FN`, the external CRC primitive (00_scope.md R4, 41_checksum.md R161): the reference CRC-32,
or any other total function of the bytes, of which the model knows nothing but its number (DESIGN
CHOICE, notes/assumptions/6.md). -/
inductive CrcChoice where
  | reference
  | external (k : Nat)
deriving DecidableEq, Repr

/-- The parameters of 00_scope.md R4 that a model takes as an argument. -/
structure Config where
  /-- `B`, the cipher block size in bytes -/
  blockSize : Nat
  /-- `MIN_FRAME` in bytes -/
  minFrame : Nat
  /-- `MAX_FRAME` in bytes -/
  maxFrame : Nat
  /-- `BUF_SIZE`, the packet buffer's size in bytes -/
  bufSize : Nat
  crcOrder : CrcOrder
  crcFn : CrcChoice
deriving DecidableEq, Repr

/-- The default of every parameter (00_scope.md R4). -/
def Config.defaults : Config :=
  { blockSize := 16, minFrame := 48, maxFrame := 1488, bufSize := 4096,
    crcOrder := .le, crcFn := .reference }

/-- FREE VALUE. The byte that the packet buffer holds at an offset nothing has written since the
`epoch`-th reset: "a draw under no law" (20_memory.md R74; 93_implementation_defined.md I9, I10;
DESIGN CHOICE, notes/assumptions/2.md). -/
opaque Config.unwrittenByte (epoch : Nat) (offset : Nat) : Byte

/-- FREE VALUE. An arbitrary external CRC primitive, one for each number `k` (41_checksum.md R161:
"a total function from byte sequences to 32-bit values that depends on its argument alone"). -/
opaque Config.externalCrc (k : Nat) (s : List Byte) : Word

end Sys2Proof
end

