-- ==== Sys2Proof/Syntax.lean ====
section
/-! DEFINITION. The commands of the P1 Frame Engine, one constructor per row of
spec/opcode_table.json (30_encoding.md R102). A command word names no operand: every operand comes
from the latched registers (R104), so no constructor has a field. -/

namespace Sys2Proof

/-- The six commands (30_encoding.md R102). -/
inductive Instr where
  /-- 0x1 PAD, 40_padding.md R133 -/
  | pad
  /-- 0x2 UNPAD, 40_padding.md R135 -/
  | unpad
  /-- 0x3 CRC, 41_checksum.md R163 -/
  | crc
  /-- 0x4 VERIFY, 41_checksum.md R166 -/
  | verify
  /-- 0x5 BUILD, 42_frame.md R190 -/
  | build
  /-- 0x6 PARSE, 42_frame.md R200 -/
  | parse
deriving DecidableEq, Repr

end Sys2Proof
end

