-- ==== Sys2Proof/WellFormed.lean ====
section
/-! DEFINITION. What is well formed: a command (always, since it has no operand field, 30_encoding.md
R100) and a configuration (the constraints of 00_scope.md R5, one check each). -/

namespace Sys2Proof

/-- A command has no operand field that could be out of range (30_encoding.md R100, R104). -/
def Instr.wellFormed : Instr → Bool
  | .pad | .unpad | .crc | .verify | .build | .parse => true

/-- `1 <= B <= 255` (00_scope.md R5). -/
def Config.blockSizeOk (c : Config) : Bool :=
  decide (1 ≤ c.blockSize) && decide (c.blockSize ≤ 255)

/-- `HDR_SIZE + CKS_SIZE = 18 <= MIN_FRAME <= MAX_FRAME <= BUF_SIZE` (00_scope.md R5). -/
def Config.frameBoundsOk (c : Config) : Bool :=
  decide (18 ≤ c.minFrame) && decide (c.minFrame ≤ c.maxFrame) && decide (c.maxFrame ≤ c.bufSize)

/-- `BUF_SIZE` is a power of two with `64 <= BUF_SIZE <= 4096` (00_scope.md R5). -/
def Config.bufSizeOk (c : Config) : Bool :=
  [64, 128, 256, 512, 1024, 2048, 4096].contains c.bufSize

/-- A configuration that meets every constraint of 00_scope.md R5. The fourth constraint, that
`CRC_ORDER` is `LE` or `BE`, is the type `CrcOrder`. -/
def Config.wellFormed (c : Config) : Bool :=
  c.blockSizeOk && c.frameBoundsOk && c.bufSizeOk

end Sys2Proof
end

