-- ==== Sys2Proof/Decode.lean ====
section
/-! DEFINITION. The command decoder (30_encoding.md R100-R103, R109), total on every 32-bit word,
and the encoder, written from the same table (R102). -/

namespace Sys2Proof

/-- Why a word is not a legal command word (30_encoding.md R103). -/
inductive DecodeReject where
  /-- `RSV` (bits [31:4]) is not 0 -/
  | reservedBits (rsv : BitVec 28)
  /-- `OP` (bits [3:0]) is 0x0 or 0x7..0xF -/
  | reservedOpcode (op : BitVec 4)
deriving DecidableEq, Repr

/-- The field `OP`, bits [3:0] (30_encoding.md R100). -/
def opField (w : Word) : BitVec 4 := w.extractLsb' 0 4

/-- The field `RSV`, bits [31:4] (30_encoding.md R100). -/
def rsvField (w : Word) : BitVec 28 := w.extractLsb' 4 28

/-- The command that an opcode selects (30_encoding.md R102); `none` for a reserved one (R103). -/
def opcodeInstr (op : BitVec 4) : Option Instr :=
  match op.toNat with
  | 0x1 => some .pad
  | 0x2 => some .unpad
  | 0x3 => some .crc
  | 0x4 => some .verify
  | 0x5 => some .build
  | 0x6 => some .parse
  | _ => none

/-- The decoder (30_encoding.md R101): a word is a command exactly when `RSV` is 0 and `OP` is one of
0x1..0x6; every other word is rejected by name. -/
def decode (w : Word) : Except DecodeReject Instr :=
  if rsvField w = 0 then
    match opcodeInstr (opField w) with
    | some i => .ok i
    | none => .error (.reservedOpcode (opField w))
  else .error (.reservedBits (rsvField w))

/-- The opcode of a command (30_encoding.md R102). -/
def Instr.opcode : Instr → BitVec 4
  | .pad => 0x1
  | .unpad => 0x2
  | .crc => 0x3
  | .verify => 0x4
  | .build => 0x5
  | .parse => 0x6

/-- The command word: `RSV` = 0 above `OP` (30_encoding.md R100). -/
def encode (i : Instr) : Word := (0 : BitVec 28) ++ i.opcode

/-- What the decoder reads from a row of spec/opcode_table.json: the command word is one 32-bit word,
bit 0 the least significant, and the bits above `nbits` are 0. A value that does not fit a 32-bit
word is no command word (DESIGN CHOICE, notes/assumptions/15.md; safe). -/
def decodeTableWord (nbits w : Nat) : Option Instr :=
  if w % 2 ^ nbits < 2 ^ 32 then
    match decode (BitVec.ofNat 32 (w % 2 ^ nbits)) with
    | .ok i => some i
    | .error _ => none
  else none

end Sys2Proof
end

