-- ==== Sys2Proof/Machine/State.lean ====
section
/-! DEFINITION. The state of the P1 Frame Engine as plain data (10_state.md, 20_memory.md), its value
after reset (10_state.md R61), and the reasons a step can stop.

The block fetches no program (10_state.md R21). What drives it is the outside: the host's bus
transactions, the moment at which the engine completes a command, and the `rst_n` input (00_scope.md
R9). `State.sched` holds whose turn comes next, so that one deterministic step runs every
interleaving of the three agents (DESIGN CHOICE, notes/assumptions/1.md; safe). -/

namespace Sys2Proof.Machine

/-- The packet buffer (20_memory.md R70) as a list of (offset, byte) cells, offsets strictly rising.
An offset that is not listed has not been written since reset: its byte is unknown (R74). -/
abbrev Memory := List Host.Cell

/-- The result codes of `STATUS.CODE` (60_exceptions.md R230). The reserved values 8-15 are never
produced, so they have no constructor. -/
inductive ResultCode where
  | ok
  | invalidPadding
  | checksumMismatch
  | shortFrame
  | frameTooShort
  | bufferTooLarge
  | rangeError
  | illegalCmd
deriving DecidableEq, Repr

/-- The engine phase (10_state.md R57); `STATUS.BUSY` mirrors it (R27). -/
inductive Phase where
  | idle
  | busy
deriving DecidableEq, Repr

/-- The registers of the map of 10_state.md R23. -/
inductive Reg where
  | id
  | ctrl
  | status
  | cmd
  | srcPtr
  | srcLen
  | dstPtr
  | dstCap
  | resLen
  | crcValue
  | cfgDstLo
  | cfgDstHi
  | cfgSrcLo
  | cfgSrcHi
  | prsDstLo
  | prsDstHi
  | prsSrcLo
  | prsSrcHi
  | prsLen
  | prsPayOff
  | prsPayLen
  | prsCrc
  | paramBlock
  | paramMinf
  | paramMaxf
  | paramBuf
  | paramCrc
deriving DecidableEq, Repr

/-- One host bus transaction `(kind, off, wdata, strb)` (20_memory.md R75). A read carries no data
and no strobes. -/
inductive Access where
  | read (off : BitVec 13)
  | write (off : BitVec 13) (wdata : Word) (strb : BitVec 4)
deriving DecidableEq, Repr

/-- One agent's turn (00_scope.md R9): a host transaction, the point at which the engine may take its
completion step, or the `rst_n` input driven to a level (70_reset_and_hazards.md R260). -/
inductive Turn where
  | host (a : Access)
  | engine
  | rstN (level : Bool)
deriving DecidableEq, Repr

/-- A 6-byte address as the string of its wire bytes 0..5 (10_state.md R42, R43). -/
structure Addr where
  b0 : Byte
  b1 : Byte
  b2 : Byte
  b3 : Byte
  b4 : Byte
  b5 : Byte
deriving DecidableEq, Repr

/-- The address 00:00:00:00:00:00 (10_state.md R61). -/
def Addr.zero : Addr := { b0 := 0, b1 := 0, b2 := 0, b3 := 0, b4 := 0, b5 := 0 }

/-- The latch `L` (10_state.md R45): the operands of the command in flight. -/
structure Latch where
  cmd : Word
  srcPtr : BitVec 12
  srcLen : BitVec 13
  dstPtr : BitVec 12
  dstCap : BitVec 13
  cfgDst : Addr
  cfgSrc : Addr
deriving DecidableEq, Repr

/-- The value the model names for the latch at reset, which the spec leaves unspecified (10_state.md
R61; DESIGN CHOICE, notes/assumptions/3.md; unsafe). -/
def Latch.zero : Latch :=
  { cmd := 0, srcPtr := 0, srcLen := 0, dstPtr := 0, dstCap := 0, cfgDst := .zero, cfgSrc := .zero }

/-- The eight parse result registers `PRS_*` (10_state.md R46-R51). -/
structure ParseRegs where
  dstLo : Word
  dstHi : BitVec 16
  srcLo : Word
  srcHi : BitVec 16
  len : BitVec 16
  payOff : BitVec 13
  payLen : BitVec 16
  crc : Word
deriving DecidableEq, Repr

/-- All eight `PRS_*` registers 0: their reset value (10_state.md R61) and what a failing PARSE
writes (42_frame.md R206). -/
def ParseRegs.zero : ParseRegs :=
  { dstLo := 0, dstHi := 0, srcLo := 0, srcHi := 0, len := 0, payOff := 0, payLen := 0, crc := 0 }

/-- The machine's state. -/
structure State where
  /-- the parameters (00_scope.md R4); `PARAM_*` read them (10_state.md R52-R56; DESIGN CHOICE to hold
  them here, notes/assumptions/5.md, safe) -/
  cfg : Config
  /-- `CTRL.IRQ_EN` (R24) -/
  irqEn : Bool
  /-- `CTRL.LOCK` (R25) -/
  lock : Bool
  /-- `STATUS.DONE` (R28) -/
  done : Bool
  /-- `STATUS.TRUNC` (R29) -/
  trunc : Bool
  /-- `STATUS.OVERRUN` (R30) -/
  overrun : Bool
  /-- `STATUS.CODE` (R31) -/
  code : ResultCode
  /-- the engine phase, read as `STATUS.BUSY` (R27, R57) -/
  phase : Phase
  /-- `CMD` (R33-R35) -/
  cmd : Word
  /-- `SRC_PTR` (R36) -/
  srcPtr : BitVec 12
  /-- `SRC_LEN` (R37) -/
  srcLen : BitVec 13
  /-- `DST_PTR` (R38) -/
  dstPtr : BitVec 12
  /-- `DST_CAP` (R39) -/
  dstCap : BitVec 13
  /-- `RES_LEN` (R40) -/
  resLen : BitVec 13
  /-- `CRC_VALUE` (R41) -/
  crcValue : Word
  /-- `CFG_DST_LO` (R42) -/
  cfgDstLo : Word
  /-- `CFG_DST_HI` (R42) -/
  cfgDstHi : BitVec 16
  /-- `CFG_SRC_LO` (R43) -/
  cfgSrcLo : Word
  /-- `CFG_SRC_HI` (R43) -/
  cfgSrcHi : BitVec 16
  /-- `PRS_*` (R46-R51) -/
  prs : ParseRegs
  /-- the latch `L` (R45) -/
  latch : Latch
  /-- the packet buffer `buf` (20_memory.md R70) -/
  mem : Memory
  /-- the port `PRDATA`: `rdata` of the host's last read (20_memory.md R75, R76; DESIGN CHOICE that it
  holds between reads, notes/assumptions/4.md, unsafe) -/
  rdata : Word
  /-- the level of the port `rst_n` (70_reset_and_hazards.md R260; notes/assumptions/9.md) -/
  rstN : Bool
  /-- the model's own: how many resets came before, the index of the free bytes of the buffer
  (DESIGN CHOICE, notes/assumptions/2.md) -/
  epoch : Nat
  /-- the model's own: whose turn comes next (DESIGN CHOICE, notes/assumptions/1.md) -/
  sched : List Turn
deriving DecidableEq, Repr

/-- The machine right after reset (10_state.md R61, 70_reset_and_hazards.md R260): `rst_n` released,
the parameters at their defaults (00_scope.md R4), no buffer byte known, nobody's turn pending. -/
def State.reset : State :=
  { cfg := Config.defaults,
    irqEn := false, lock := false,
    done := false, trunc := false, overrun := false, code := .ok, phase := .idle,
    cmd := 0, srcPtr := 0, srcLen := 0, dstPtr := 0, dstCap := 0,
    resLen := 0, crcValue := 0,
    cfgDstLo := 0, cfgDstHi := 0, cfgSrcLo := 0, cfgSrcHi := 0,
    prs := .zero, latch := .zero, mem := [], rdata := 0, rstN := true, epoch := 0, sched := [] }

/-- Why the machine would stop with a fault: never. The engine "never faults, hangs or stalls forever"
(60_exceptions.md R237), the bus has no error response (20_memory.md R75) and there is no trap
(60_exceptions.md R236), so the type has no constructor (DEDUCED,
notes/assumptions/16.md; safe). -/
inductive Fault where
deriving DecidableEq, Repr

/-- Why the model gives a step no meaning. -/
inductive Refusal where
  /-- Raised by an arm of `exec` whose command has no meaning yet; no arm raises it. Safe: the model
  stops where the hardware goes on. -/
  | notModelled (mnemonic : String)
  /-- Raised by `step` in a state whose parameters break a constraint of 00_scope.md R5 ("A model
  refuses a configuration that breaks one"). Safe: no such block exists. -/
  | badConfiguration
deriving DecidableEq, Repr

/-- What a step or a meaning answers. -/
abbrev Result := Host.Outcome State Fault Refusal

end Sys2Proof.Machine
end

