-- ==== Sys2Proof/Machine/Operands.lean ====
section
/-! DEFINITION. The operand forms: byte packing (00_scope.md R7), the address strings (10_state.md
R42, R43), regions and their range check (30_encoding.md R104, R110), the latch (10_state.md R45) and
the length arithmetic of the pad and the frame (40_padding.md R131, 42_frame.md R190). -/

namespace Sys2Proof.Machine

/-- Byte `i` of a word, `v[8i+7 : 8i]` (00_scope.md R6). -/
def byteOf (v : Word) (i : Nat) : Byte := v.extractLsb' (8 * i) 8

/-- `le32` (00_scope.md R7). -/
def le32 (v : Word) : List Byte := [byteOf v 0, byteOf v 1, byteOf v 2, byteOf v 3]

/-- `be32` (00_scope.md R7). -/
def be32 (v : Word) : List Byte := [byteOf v 3, byteOf v 2, byteOf v 1, byteOf v 0]

/-- `be16` (00_scope.md R7). -/
def be16 (v : BitVec 16) : List Byte := [v.extractLsb' 8 8, v.extractLsb' 0 8]

/-- The value of a byte sequence whose first byte is the least significant one. -/
def leValue : List Byte → Nat
  | [] => 0
  | b :: s => b.toNat + 256 * leValue s

/-- The value of a byte sequence whose first byte is the most significant one. -/
def beValue (s : List Byte) : Nat := leValue s.reverse

/-- `unle32` (00_scope.md R7), of a sequence of at most 4 bytes. -/
def unle32 (s : List Byte) : Word := BitVec.ofNat 32 (leValue s)

/-- `unbe32` (00_scope.md R7), of a sequence of at most 4 bytes. -/
def unbe32 (s : List Byte) : Word := BitVec.ofNat 32 (beValue s)

/-- `unbe16` (00_scope.md R7), a natural number. -/
def unbe16 (s : List Byte) : Nat := beValue s

/-- `cks_bytes` (00_scope.md R7, 41_checksum.md R165). -/
def cksBytes (o : CrcOrder) (v : Word) : List Byte :=
  match o with
  | .le => le32 v
  | .be => be32 v

/-- `cks_value`, the inverse of `cks_bytes` (00_scope.md R7, 41_checksum.md R165). -/
def cksValue (o : CrcOrder) (s : List Byte) : Word :=
  match o with
  | .le => unle32 s
  | .be => unbe32 s

/-- `s[a..b)` (00_scope.md R7). -/
def slice (s : List Byte) (a b : Nat) : List Byte := (s.drop a).take (b - a)

/-- `le32(LO) ++ le32(HI)[0..2)` (10_state.md R42, R43). -/
def Addr.ofRegs (lo : Word) (hi : BitVec 16) : Addr :=
  { b0 := byteOf lo 0, b1 := byteOf lo 1, b2 := byteOf lo 2, b3 := byteOf lo 3,
    b4 := hi.extractLsb' 0 8, b5 := hi.extractLsb' 8 8 }

/-- The six bytes of an address in wire order (10_state.md R42). -/
def Addr.bytes (a : Addr) : List Byte := [a.b0, a.b1, a.b2, a.b3, a.b4, a.b5]

/-- `in_range(p, n) = (p + n <= BUF_SIZE)`, on naturals (30_encoding.md R110). -/
def inRange (c : Config) (p n : Nat) : Bool := decide (p + n ≤ c.bufSize)

/-- `padSize(n) = B - (n mod B)` (40_padding.md R131). -/
def padSize (blk n : Nat) : Nat := blk - n % blk

/-- `latch()` (10_state.md R45): the snapshot of the operands that an issue of the word `w` takes. -/
def State.takeLatch (s : State) (w : Word) : Latch :=
  { cmd := w, srcPtr := s.srcPtr, srcLen := s.srcLen, dstPtr := s.dstPtr, dstCap := s.dstCap,
    cfgDst := Addr.ofRegs s.cfgDstLo s.cfgDstHi, cfgSrc := Addr.ofRegs s.cfgSrcLo s.cfgSrcHi }

/-- `L.src_ptr`, zero-extended (30_encoding.md R104). -/
def State.srcAt (s : State) : Nat := s.latch.srcPtr.toNat

/-- `L.src_len`, zero-extended (30_encoding.md R104). -/
def State.srcCount (s : State) : Nat := s.latch.srcLen.toNat

/-- `L.dst_ptr`, zero-extended (30_encoding.md R104). -/
def State.dstAt (s : State) : Nat := s.latch.dstPtr.toNat

/-- `L.dst_cap`, zero-extended (30_encoding.md R104). -/
def State.dstCount (s : State) : Nat := s.latch.dstCap.toNat

end Sys2Proof.Machine
end

