-- ==== Sys2Proof/Machine/Crc.lean ====
section
/-! DEFINITION. The CRC primitive as the block sees it, the function `CRC_FN` (41_checksum.md R160,
R161), and its reference instance. -/

namespace Sys2Proof.Machine

/-- One bit of the reference instance: `c[0] = 1` shifts and adds the reflected polynomial,
`c[0] = 0` shifts (41_checksum.md R161). -/
def crcBit (c : Word) : Word :=
  if c.getLsbD 0 then (c >>> 1) ^^^ 0xEDB88320 else c >>> 1

/-- One byte of the reference instance (41_checksum.md R161): 8 bits, least significant first. -/
def crcByte (c : Word) (x : Byte) : Word := Nat.repeat crcBit 8 (c ^^^ x.setWidth 32)

/-- `CRC_FN_ref` (41_checksum.md R161): seeded with all ones, complemented at the end. -/
def crcReference (s : List Byte) : Word := s.foldl crcByte 0xFFFFFFFF ^^^ 0xFFFFFFFF

/-- `CRC_FN(s)`, seeded afresh at every call (41_checksum.md R160): a function of the bytes alone, so the
primitive's accumulator and port have no state here (R162, 10_state.md R58; DEDUCED,
notes/assumptions/7.md; safe). -/
def crcFn (c : Config) (s : List Byte) : Word :=
  match c.crcFn with
  | .reference => crcReference s
  | .external k => Config.externalCrc k s

end Sys2Proof.Machine
end

