-- ==== Sys2Proof/Machine/Flags.lean ====
section
/-! DEFINITION. The status and control words, the flag updates, and the `irq` output (10_state.md
R24-R32, 60_exceptions.md R230, R239). -/

namespace Sys2Proof.Machine

/-- The value of a result code in `STATUS.CODE` (60_exceptions.md R230). -/
def ResultCode.bits : ResultCode → BitVec 4
  | .ok => 0
  | .invalidPadding => 1
  | .checksumMismatch => 2
  | .shortFrame => 3
  | .frameTooShort => 4
  | .bufferTooLarge => 5
  | .rangeError => 6
  | .illegalCmd => 7

/-- `STATUS.BUSY` mirrors the engine phase (10_state.md R27). -/
def State.busy (s : State) : Bool := decide (s.phase = .busy)

/-- The `STATUS` register: BUSY 0, DONE 1, TRUNC 2, OVERRUN 3, CODE [7:4], [31:8] reserved
(10_state.md R27-R32). -/
def State.statusWord (s : State) : Word :=
  (0 : BitVec 24) ++ s.code.bits ++ BitVec.ofBool s.overrun ++ BitVec.ofBool s.trunc ++
    BitVec.ofBool s.done ++ BitVec.ofBool s.busy

/-- The `CTRL` register: IRQ_EN 0, LOCK 1, [31:2] reserved (10_state.md R24-R26). -/
def State.ctrlWord (s : State) : Word :=
  (0 : BitVec 30) ++ BitVec.ofBool s.lock ++ BitVec.ofBool s.irqEn

/-- The output `irq = STATUS.DONE AND CTRL.IRQ_EN` (60_exceptions.md R239). -/
def State.irq (s : State) : Bool := s.done && s.irqEn

/-- A write to `CTRL`: IRQ_EN takes bit 0, LOCK is set by bit 1 and never cleared (10_state.md
R24-R26). -/
def State.writeCtrl (s : State) (w : Word) : State :=
  { s with irqEn := w.getLsbD 0, lock := s.lock || w.getLsbD 1 }

/-- A write to `STATUS`: bit 1 clears DONE, bit 3 clears OVERRUN, the rest is ignored (10_state.md
R28, R30, R32). -/
def State.writeStatus (s : State) (w : Word) : State :=
  { s with done := s.done && !w.getLsbD 1, overrun := s.overrun && !w.getLsbD 3 }

/-- The record of a breach of the serialisation rule (10_state.md R30). -/
def State.setOverrun (s : State) : State := { s with overrun := true }

/-- What every completion writes (10_state.md R60; 20_memory.md R80; 60_exceptions.md R238): CODE,
TRUNC, DONE set, BUSY clear. -/
def State.complete (s : State) (code : ResultCode) (trunc : Bool) : State :=
  { s with code := code, trunc := trunc, done := true, phase := .idle }

end Sys2Proof.Machine
end

