-- ==== Sys2Proof/Machine/Ops.lean ====
section
/-! DEFINITION. The shared operations: the packet buffer (`MemRead`, `MemWrite`, 20_memory.md R71),
ending a command (`raise` and `complete`, 00_scope.md R8; the block has no trap, 60_exceptions.md
R236), the issue of a command (10_state.md R33) and the reset (70_reset_and_hazards.md R260). -/

namespace Sys2Proof.Machine

/-! ### The packet buffer -/

/-- The byte known at an offset; `none` where nothing has been written since reset (20_memory.md
R74). -/
def Memory.get? : Memory → Nat → Option Byte
  | [], _ => none
  | (k, b) :: m, a => if k = a then some b else Memory.get? m a

/-- The cells of a byte sequence laid at consecutive offsets from `a`. -/
def Memory.cells : Nat → List Byte → Memory
  | _, [] => []
  | a, b :: s => (a, b) :: Memory.cells (a + 1) s

/-- `buf[a+i] <- s[i]` for every `i < len(s)` (20_memory.md R71), the cells kept in rising order. -/
def Memory.write (m : Memory) (a : Nat) (s : List Byte) : Memory :=
  m.filter (fun c => decide (c.1 < a)) ++ Memory.cells a s ++
    m.filter (fun c => decide (a + s.length ≤ c.1))

/-- The canonical form: offsets strictly rising. An unlisted offset is unknown, which no listed byte
is, so no entry equals what an unlisted offset reads as. -/
abbrev Memory.wf (m : Memory) : Prop := m.Pairwise (fun x y => x.1 < y.1)

/-- The byte `buf[a]`: what was written there, or a free value (20_memory.md R74,
93_implementation_defined.md I9 `any value`). -/
def State.readByte (s : State) (a : Nat) : Byte :=
  (s.mem.get? a).getD (Config.unwrittenByte s.epoch a)

/-- `MemRead(a, n)` (20_memory.md R71). -/
def State.memRead (s : State) (a n : Nat) : List Byte := (List.range n).map (fun i => s.readByte (a + i))

/-- `MemWrite(a, len(bs), bs)` (20_memory.md R71). -/
def State.memWrite (s : State) (a : Nat) (bs : List Byte) : State :=
  { s with mem := s.mem.write a bs }

/-! ### The bytes a command reads -/

/-- `MemRead(L.src_ptr, L.src_len)`, the command's source region (30_encoding.md R104). -/
def State.source (s : State) : List Byte := s.memRead s.srcAt s.srcCount

/-- `in_range(L.src_ptr, L.src_len)` (30_encoding.md R110). -/
def State.sourceInRange (s : State) : Bool := inRange s.cfg s.srcAt s.srcCount

/-! ### Ending a command -/

/-- `complete(CODE)` and `raise CODE` (00_scope.md R8): the writes made so far, the code and the
completion flags take effect in one step, and nothing is vectored or saved (60_exceptions.md R236). -/
def State.finish (s : State) (code : ResultCode) : Result := .next (s.complete code false)

/-- The end of a truncating BUILD: `STATUS.TRUNC <- 1; raise BUFFER_TOO_LARGE` (42_frame.md R190). -/
def State.finishTruncated (s : State) : Result := .next (s.complete .bufferTooLarge true)

/-- `RES_LEN <- n` (10_state.md R40). -/
def State.setResLen (s : State) (n : Nat) : State := { s with resLen := BitVec.ofNat 13 n }

/-- `CRC_VALUE <- c` (10_state.md R41). -/
def State.setCrcValue (s : State) (c : Word) : State := { s with crcValue := c }

/-- The write of the eight `PRS_*` registers (42_frame.md R200). -/
def State.setPrs (s : State) (p : ParseRegs) : State := { s with prs := p }

/-- `clear_prs()` (42_frame.md R200, R206). -/
def State.clearPrs (s : State) : State := s.setPrs .zero

/-- The completion of a latched word that is not legal: only `STATUS` changes (60_exceptions.md
R231). -/
def completeIllegal (s : State) : Result := s.finish .illegalCmd

/-! ### Issue and reset -/

/-- A host write of `w` to `CMD` while idle (10_state.md R33). -/
def State.issue (s : State) (w : Word) : State :=
  { s with cmd := w, latch := s.takeLatch w, done := false, phase := .busy }

/-- `rst_n` driven low (70_reset_and_hazards.md R260, R262): every state element takes its reset value
of 10_state.md R61, the buffer becomes unknown, a command in flight is abandoned. The parameters stay,
being constants of the block, and so do the turns still to come (DESIGN CHOICE,
notes/assumptions/9.md; safe). -/
def State.enterReset (s : State) : State :=
  { State.reset with cfg := s.cfg, rstN := false, epoch := s.epoch + 1, sched := s.sched }

/-- `rst_n` driven to a level (70_reset_and_hazards.md R260): low resets, high releases. -/
def State.driveRstN (s : State) (level : Bool) : State :=
  if level then { s with rstN := true } else s.enterReset

end Sys2Proof.Machine
end

