-- ==== Sys2Proof/Machine/Bus.lean ====
section
/-! DEFINITION. The host bus: the register map (10_state.md R22-R56), the buffer window (20_memory.md
R72, R73, R78) and one transaction (20_memory.md R75). -/

namespace Sys2Proof.Machine

/-- The offset of a register (10_state.md R23). -/
def Reg.offset : Reg → Nat
  | .id => 0x000
  | .ctrl => 0x004
  | .status => 0x008
  | .cmd => 0x00C
  | .srcPtr => 0x010
  | .srcLen => 0x014
  | .dstPtr => 0x018
  | .dstCap => 0x01C
  | .resLen => 0x020
  | .crcValue => 0x024
  | .cfgDstLo => 0x028
  | .cfgDstHi => 0x02C
  | .cfgSrcLo => 0x030
  | .cfgSrcHi => 0x034
  | .prsDstLo => 0x038
  | .prsDstHi => 0x03C
  | .prsSrcLo => 0x040
  | .prsSrcHi => 0x044
  | .prsLen => 0x048
  | .prsPayOff => 0x04C
  | .prsPayLen => 0x050
  | .prsCrc => 0x054
  | .paramBlock => 0x058
  | .paramMinf => 0x05C
  | .paramMaxf => 0x060
  | .paramBuf => 0x064
  | .paramCrc => 0x068

/-- Every register, in the order of the map of 10_state.md R23. -/
def Reg.all : List Reg :=
  [.id, .ctrl, .status, .cmd, .srcPtr, .srcLen, .dstPtr, .dstCap, .resLen, .crcValue] ++
  [.cfgDstLo, .cfgDstHi, .cfgSrcLo, .cfgSrcHi] ++
  [.prsDstLo, .prsDstHi, .prsSrcLo, .prsSrcHi, .prsLen, .prsPayOff, .prsPayLen, .prsCrc] ++
  [.paramBlock, .paramMinf, .paramMaxf, .paramBuf, .paramCrc]

/-- The register at a word offset; `none` for a reserved offset (10_state.md R23). -/
def regAt (n : Nat) : Option Reg := Reg.all.find? (fun r => r.offset == n)

/-- `off[12:2]` as the byte offset of its word within the register space or the window: `off[1:0]` is
ignored (20_memory.md R75). -/
def wordOffset (off : BitVec 13) : Nat := 4 * (off.toNat % 0x1000 / 4)

/-- The window is the upper half of the host address space, 0x1000..0x1FFF (20_memory.md R70). -/
def isWindow (off : BitVec 13) : Bool := decide (0x1000 ≤ off.toNat)

/-- The value a host read of a register returns (10_state.md R22-R56): the field, zero-extended. -/
def State.readReg (s : State) : Reg → Word
  | .id => 0x50F10001
  | .ctrl => s.ctrlWord
  | .status => s.statusWord
  | .cmd => s.cmd
  | .srcPtr => s.srcPtr.setWidth 32
  | .srcLen => s.srcLen.setWidth 32
  | .dstPtr => s.dstPtr.setWidth 32
  | .dstCap => s.dstCap.setWidth 32
  | .resLen => s.resLen.setWidth 32
  | .crcValue => s.crcValue
  | .cfgDstLo => s.cfgDstLo
  | .cfgDstHi => s.cfgDstHi.setWidth 32
  | .cfgSrcLo => s.cfgSrcLo
  | .cfgSrcHi => s.cfgSrcHi.setWidth 32
  | .prsDstLo => s.prs.dstLo
  | .prsDstHi => s.prs.dstHi.setWidth 32
  | .prsSrcLo => s.prs.srcLo
  | .prsSrcHi => s.prs.srcHi.setWidth 32
  | .prsLen => s.prs.len.setWidth 32
  | .prsPayOff => s.prs.payOff.setWidth 32
  | .prsPayLen => s.prs.payLen.setWidth 32
  | .prsCrc => s.prs.crc
  | .paramBlock => (BitVec.ofNat 8 s.cfg.blockSize).setWidth 32
  | .paramMinf => (BitVec.ofNat 13 s.cfg.minFrame).setWidth 32
  | .paramMaxf => (BitVec.ofNat 13 s.cfg.maxFrame).setWidth 32
  | .paramBuf => (BitVec.ofNat 14 s.cfg.bufSize).setWidth 32
  | .paramCrc =>
    match s.cfg.crcOrder with
    | .le => 0
    | .be => 1

/-- A host write to `CMD`: an issue while idle (10_state.md R33), dropped with OVERRUN while busy
(R34). -/
def State.writeCmd (s : State) (w : Word) : State :=
  if s.busy then s.setOverrun else s.issue w

/-- A host write to a register (10_state.md R22-R56): the bits of the field, higher bits dropped;
read-only registers ignore it, and the `CFG_*` registers ignore it while locked (R44). -/
def State.writeReg (s : State) (r : Reg) (w : Word) : State :=
  match r with
  | .ctrl => s.writeCtrl w
  | .status => s.writeStatus w
  | .cmd => s.writeCmd w
  | .srcPtr => { s with srcPtr := w.setWidth 12 }
  | .srcLen => { s with srcLen := w.setWidth 13 }
  | .dstPtr => { s with dstPtr := w.setWidth 12 }
  | .dstCap => { s with dstCap := w.setWidth 13 }
  | .cfgDstLo => if s.lock then s else { s with cfgDstLo := w }
  | .cfgDstHi => if s.lock then s else { s with cfgDstHi := w.setWidth 16 }
  | .cfgSrcLo => if s.lock then s else { s with cfgSrcLo := w }
  | .cfgSrcHi => if s.lock then s else { s with cfgSrcHi := w.setWidth 16 }
  | .id | .resLen | .crcValue => s
  | .prsDstLo | .prsDstHi | .prsSrcLo | .prsSrcHi | .prsLen | .prsPayOff | .prsPayLen | .prsCrc => s
  | .paramBlock | .paramMinf | .paramMaxf | .paramBuf | .paramCrc => s

/-! ### The buffer window -/

/-- The byte of lane `i` of window word `j`, 0 at or beyond `BUF_SIZE` (20_memory.md R73). -/
def State.windowByte (s : State) (j i : Nat) : Byte :=
  if j + i < s.cfg.bufSize then s.readByte (j + i) else 0

/-- The window word at byte offset `j`, little-endian lanes (20_memory.md R73). -/
def State.windowWord (s : State) (j : Nat) : Word :=
  s.windowByte j 3 ++ s.windowByte j 2 ++ s.windowByte j 1 ++ s.windowByte j 0

/-- The write of lane `i` of window word `j`: when its strobe is set and the byte lies below
`BUF_SIZE` (20_memory.md R73). -/
def State.writeLane (s : State) (j : Nat) (wdata : Word) (strb : BitVec 4) (i : Nat) : State :=
  if strb.getLsbD i && decide (j + i < s.cfg.bufSize) then s.memWrite (j + i) [byteOf wdata i] else s

/-- A window write while idle (20_memory.md R73). -/
def State.writeWindow (s : State) (j : Nat) (wdata : Word) (strb : BitVec 4) : State :=
  [0, 1, 2, 3].foldl (fun t i => t.writeLane j wdata strb i) s

/-! ### One transaction -/

/-- `rdata` of a read (20_memory.md R75). -/
def State.setRdata (s : State) (v : Word) : State := { s with rdata := v }

/-- A host read (20_memory.md R75): a register, 0 at a reserved offset, a window word, or 0 with
OVERRUN for the window while busy (R78; also at or beyond `BUF_SIZE`: DEDUCED,
notes/assumptions/14.md, unsafe). -/
def State.busRead (s : State) (off : BitVec 13) : State :=
  if isWindow off then
    if s.busy then s.setOverrun.setRdata 0
    else s.setRdata (s.windowWord (wordOffset off))
  else
    match regAt (wordOffset off) with
    | some r => s.setRdata (s.readReg r)
    | none => s.setRdata 0

/-- A host write (20_memory.md R75): a register, whose strobes are ignored, nothing at a reserved
offset, window lanes under their strobes, or only OVERRUN for the window while busy (R78). -/
def State.busWrite (s : State) (off : BitVec 13) (wdata : Word) (strb : BitVec 4) : State :=
  if isWindow off then
    if s.busy then s.setOverrun else s.writeWindow (wordOffset off) wdata strb
  else
    match regAt (wordOffset off) with
    | some r => s.writeReg r wdata
    | none => s

/-- One bus transaction. While `rst_n = 0` reads return 0 and writes have no effect
(70_reset_and_hazards.md R260). -/
def State.busStep (s : State) (a : Access) : State :=
  match a with
  | .read off => if s.rstN then s.busRead off else s.setRdata 0
  | .write off wdata strb => if s.rstN then s.busWrite off wdata strb else s

end Sys2Proof.Machine
end

