-- ==== Sys2Proof/Machine/Checksum.lean ====
section
/-! DEFINITION. CRC and VERIFY (41_checksum.md). Each is the command's whole completion step. -/

namespace Sys2Proof.Machine

/-- CRC (41_checksum.md R163). -/
def execCrc (s : State) : Result :=
  if s.sourceInRange then (s.setCrcValue (crcFn s.cfg s.source)).finish .ok
  else s.finish .rangeError

/-- VERIFY (41_checksum.md R166, R167): `CRC_VALUE` takes the recomputed checksum on `OK` and on
`CHECKSUM_MISMATCH`. -/
def execVerify (s : State) : Result :=
  if s.sourceInRange then
    let r := s.source
    if r.length < 4 then s.finish .frameTooShort
    else
      let k := r.length - 4
      let c := crcFn s.cfg (slice r 0 k)
      let e := cksValue s.cfg.crcOrder (slice r k (k + 4))
      if c = e then (s.setCrcValue c).finish .ok
      else (s.setCrcValue c).finish .checksumMismatch
  else s.finish .rangeError

end Sys2Proof.Machine
end

