-- ==== Sys2Proof/Machine/Frame.lean ====
section
/-! DEFINITION. BUILD and PARSE (42_frame.md). Each is the command's whole completion step. -/

namespace Sys2Proof.Machine

/-- The unclamped frame `f` (42_frame.md R190, R191-R194; 30_encoding.md R105): the addresses, the
length field `be16(n + 4)`, the payload and its checksum. -/
def rawFrame (o : CrcOrder) (dst src : Addr) (pl : List Byte) (c : Word) : List Byte :=
  dst.bytes ++ src.bytes ++ be16 (BitVec.ofNat 16 (pl.length + 4)) ++ pl ++ cksBytes o c

/-- The physical frame length `clamp(T, MIN_FRAME, MAX_FRAME)` (42_frame.md R195). -/
def clampLength (c : Config) (t : Nat) : Nat :=
  if t < c.minFrame then c.minFrame else if t > c.maxFrame then c.maxFrame else t

/-- The frame as written: `f` with zero bytes up to `MIN_FRAME` (42_frame.md R196), or the first
`MAX_FRAME` bytes of `f` (R197), or `f`. -/
def physicalFrame (c : Config) (f : List Byte) : List Byte :=
  if f.length < c.minFrame then f ++ List.replicate (c.minFrame - f.length) 0
  else if f.length > c.maxFrame then f.take c.maxFrame
  else f

/-- BUILD (42_frame.md R190). -/
def execBuild (s : State) : Result :=
  if s.sourceInRange then
    let pl := s.source
    let c := crcFn s.cfg pl
    let f := rawFrame s.cfg.crcOrder s.latch.cfgDst s.latch.cfgSrc pl c
    let n := clampLength s.cfg f.length
    if inRange s.cfg s.dstAt n then
      let t := ((s.memWrite s.dstAt (physicalFrame s.cfg f)).setCrcValue c).setResLen n
      if f.length > s.cfg.maxFrame then t.finishTruncated else t.finish .ok
    else (s.setResLen 0).finish .rangeError
  else (s.setResLen 0).finish .rangeError

/-- The values a successful PARSE of the frame `f` at buffer offset `p` writes, `d` the declared length
(42_frame.md R200-R202; 10_state.md R46-R51). -/
def parsedRegs (o : CrcOrder) (p : Nat) (f : List Byte) (d : Nat) : ParseRegs :=
  { dstLo := unle32 (slice f 0 4), dstHi := (unle32 (slice f 4 6)).setWidth 16,
    srcLo := unle32 (slice f 6 10), srcHi := (unle32 (slice f 10 12)).setWidth 16,
    len := BitVec.ofNat 16 d,
    payOff := BitVec.ofNat 13 (p + 14),
    payLen := BitVec.ofNat 16 (d - 4),
    crc := cksValue o (slice f (14 + (d - 4)) (14 + d)) }

/-- PARSE (42_frame.md R200, R203). -/
def execParse (s : State) : Result :=
  if s.sourceInRange then
    let f := s.source
    if f.length < 14 then s.clearPrs.finish .shortFrame
    else
      let d := unbe16 (slice f 12 14)
      if f.length < 14 + d then s.clearPrs.finish .shortFrame
      else if d < 4 then s.clearPrs.finish .frameTooShort
      else (s.setPrs (parsedRegs s.cfg.crcOrder s.srcAt f d)).finish .ok
  else s.clearPrs.finish .rangeError

end Sys2Proof.Machine
end

