-- ==== Sys2Proof/Machine/Padding.lean ====
section
/-! DEFINITION. PAD and UNPAD (40_padding.md). Each is the command's whole completion step. -/

namespace Sys2Proof.Machine

/-- The padded buffer of a message `m` with a pad of `p` bytes: `m ++ rep(p, p)` (30_encoding.md
R107). -/
def padded (m : List Byte) (p : Nat) : List Byte := m ++ List.replicate p (BitVec.ofNat 8 p)

/-- PAD (40_padding.md R133). -/
def execPad (s : State) : Result :=
  if s.sourceInRange then
    let m := s.source
    let p := padSize s.cfg.blockSize m.length
    let n := m.length + p
    if n > s.dstCount then (s.setResLen 0).finish .bufferTooLarge
    else if inRange s.cfg s.dstAt n then
      ((s.memWrite s.dstAt (padded m p)).setResLen n).finish .ok
    else (s.setResLen 0).finish .rangeError
  else (s.setResLen 0).finish .rangeError

/-- UNPAD's checks on the bytes `b` of its region and, if all pass, the message length `n - v`
(40_padding.md R135): the region is not empty, the last byte `v` is in `[1, B]` and at most `n`, and
the last `v` bytes all equal `v`. -/
def unpadLength (blk : Nat) (b : List Byte) : Option Nat :=
  match b.getLast? with
  | none => none
  | some v =>
    if v.toNat = 0 ∨ v.toNat > blk ∨ v.toNat > b.length then none
    else if (b.drop (b.length - v.toNat)).all (fun x => x == v) then some (b.length - v.toNat)
    else none

/-- UNPAD (40_padding.md R135, R136). -/
def execUnpad (s : State) : Result :=
  if s.sourceInRange then
    match unpadLength s.cfg.blockSize s.source with
    | some n => (s.setResLen n).finish .ok
    | none => (s.setResLen 0).finish .invalidPadding
  else (s.setResLen 0).finish .rangeError

end Sys2Proof.Machine
end

