-- ==== Sys2Proof/Machine/Dispatch.lean ====
section
/-! DEFINITION. One arm per command: the meaning of a command is its completion step (20_memory.md
R80). -/

namespace Sys2Proof.Machine

def exec (i : Instr) (s : State) : Host.Outcome State Fault Refusal :=
  match i with
  | .pad => Sys2Proof.Machine.execPad s
  | .unpad => Sys2Proof.Machine.execUnpad s
  | .crc => Sys2Proof.Machine.execCrc s
  | .verify => Sys2Proof.Machine.execVerify s
  | .build => Sys2Proof.Machine.execBuild s
  | .parse => Sys2Proof.Machine.execParse s

end Sys2Proof.Machine
end

