-- ==== Sys2Proof/Machine/Step.lean ====
section
/-! DEFINITION. One step of the machine: the agent whose turn it is acts (00_scope.md R9). -/

namespace Sys2Proof.Machine

/-- The engine's completion step (20_memory.md R80): decode the latched word (30_encoding.md R101) and
complete its command, or complete with `ILLEGAL_CMD` (60_exceptions.md R231). -/
def engineStep (s : State) : Host.Outcome State Fault Refusal :=
  match decode s.latch.cmd with
  | .ok i => exec i s
  | .error _ => completeIllegal s

/-- The engine's turn: the completion step is enabled exactly when a command is in flight (00_scope.md
R9, 20_memory.md R80) and the block is not held in reset (70_reset_and_hazards.md R260); otherwise
nothing happens (R263; DESIGN CHOICE, notes/assumptions/12.md; safe). -/
def engineTurn (s : State) : Host.Outcome State Fault Refusal :=
  if s.busy && s.rstN then engineStep s else .next s

/-- One step. A configuration that breaks 00_scope.md R5 is refused. The agent at the head of the
schedule takes its turn; with no turn pending it is the engine's, so every issued command completes
(60_exceptions.md R237; DESIGN CHOICE, notes/assumptions/1.md). -/
def step (s : State) : Host.Outcome State Fault Refusal :=
  if s.cfg.wellFormed then
    match s.sched with
    | [] => engineTurn s
    | .host a :: rest => .next ({ s with sched := rest }.busStep a)
    | .engine :: rest => engineTurn { s with sched := rest }
    | .rstN level :: rest => .next ({ s with sched := rest }.driveRstN level)
  else .refused .badConfiguration

/-- The machine with the command word `w` issued (10_state.md R33) and the engine's turn next, so that
the very next step completes it. There is no instruction memory (20_memory.md R70): the latch is where
the engine takes its next command from (30_encoding.md R101). -/
def State.withFetchWord (s : State) (nbits w : Nat) : State :=
  { s.issue (BitVec.ofNat 32 (w % 2 ^ nbits)) with sched := .engine :: s.sched, rstN := true }

end Sys2Proof.Machine
end

