-- ==== Sys2Proof/Machine/Script.lean ====
section
/-! DEFINITION. The host-script notation and its pseudo-operations (30_encoding.md R111, R112) as lists
of bus transactions. -/

namespace Sys2Proof.Machine

/-- `WR <REG>, <v>` (30_encoding.md R111). -/
def Script.wr (r : Reg) (v : Word) : Access := .write (BitVec.ofNat 13 r.offset) v 0xF

/-- `RD <REG>` (30_encoding.md R111). -/
def Script.rd (r : Reg) : Access := .read (BitVec.ofNat 13 r.offset)

/-- `WRW <k>, <v>` (30_encoding.md R111). -/
def Script.wrw (k : Nat) (v : Word) : Access := .write (BitVec.ofNat 13 (0x1000 + k)) v 0xF

/-- `RDW <k>` (30_encoding.md R111). -/
def Script.rdw (k : Nat) : Access := .read (BitVec.ofNat 13 (0x1000 + k))

/-- `CMD <M>` (30_encoding.md R112). -/
def Script.cmd (i : Instr) : Access := Script.wr .cmd (encode i)

/-- `REGION <p>, <n>` (30_encoding.md R112). -/
def Script.region (p n : Nat) : List Access :=
  [Script.wr .srcPtr (BitVec.ofNat 32 p), Script.wr .srcLen (BitVec.ofNat 32 n)]

/-- `ACK` (30_encoding.md R112). -/
def Script.ack : Access := Script.wr .status 0x0000000A

/-- The byte that lane `t` of window word `j` carries for `WRB <k>, <bs>`, if any (30_encoding.md
R112). -/
def Script.lane (k : Nat) (bs : List Byte) (j t : Nat) : Option Byte :=
  if k ≤ j + t then bs[j + t - k]? else none

/-- The one write of `WRB <k>, <bs>` at window word `j` (30_encoding.md R112). A lane whose strobe is 0
carries 0x00, where R112 does not say what it carries (DESIGN CHOICE, notes/assumptions/17.md; safe). -/
def Script.wrbWord (k : Nat) (bs : List Byte) (j : Nat) : Access :=
  let lane := fun t => (Script.lane k bs j t).getD 0
  let strobe := fun t => BitVec.ofBool (Script.lane k bs j t).isSome
  .write (BitVec.ofNat 13 (0x1000 + j)) (lane 3 ++ lane 2 ++ lane 1 ++ lane 0)
    (strobe 3 ++ strobe 2 ++ strobe 1 ++ strobe 0)

/-- The window words, in rising order, that cover `buf[k .. k+n)` (30_encoding.md R112). -/
def Script.words (k n : Nat) : List Nat :=
  if n = 0 then [] else (List.range ((k + n + 3) / 4 - k / 4)).map (fun q => 4 * (k / 4 + q))

/-- `WRB <k>, <bs>` (30_encoding.md R112). -/
def Script.wrb (k : Nat) (bs : List Byte) : List Access :=
  (Script.words k bs.length).map (Script.wrbWord k bs)

/-- The reads of `RDB <k>, <n>` (30_encoding.md R112). -/
def Script.rdb (k n : Nat) : List Access := (Script.words k n).map Script.rdw

/-- The state after a list of reads run in order, and the word that each returned (20_memory.md R75). -/
def Script.readWords : State → List Access → State × List Word
  | s, [] => (s, [])
  | s, a :: l =>
    let t := s.busStep a
    ((Script.readWords t l).1, t.rdata :: (Script.readWords t l).2)

/-- The bytes that `RDB <k>, <n>` takes from the lanes of the words it read (30_encoding.md R112): lane
`t` of a word is its byte `t` (20_memory.md R73), and the first word starts at `4*floor(k/4)`. -/
def Script.laneBytes (k n : Nat) (ws : List Word) : List Byte :=
  slice (ws.flatMap le32) (k % 4) (k % 4 + n)

/-- `RDB <k>, <n>` (30_encoding.md R112): the state it leaves and the bytes it returns. -/
def Script.runRdb (s : State) (k n : Nat) : State × List Byte :=
  ((Script.readWords s (Script.rdb k n)).1, Script.laneBytes k n (Script.readWords s (Script.rdb k n)).2)

/-- `WAIT` (30_encoding.md R112) as a schedule: `polls` reads of `STATUS` before the completion step,
any number of them (93_implementation_defined.md I18), then the one that reads BUSY = 0 (DESIGN CHOICE,
notes/assumptions/13.md; safe). -/
def Script.wait (polls : Nat) : List Turn :=
  List.replicate polls (.host (Script.rd .status)) ++ [.engine, .host (Script.rd .status)]

/-- `RUN <M>` (30_encoding.md R112). -/
def Script.run (i : Instr) (polls : Nat) : List Turn := .host (Script.cmd i) :: Script.wait polls

end Sys2Proof.Machine
end

