-- ==== Sys2Proof/Safety.lean ====
section
/-! DEFINITION. The terms of the statements: a sound state, an unchanged buffer, a breach of the
serialisation rule, and the frame of BUILD said byte by byte. -/

namespace Sys2Proof.Machine

/-- The invariant of the block: what holds at reset and after every step of every agent. -/
structure State.Inv (s : State) : Prop where
  /-- the parameters meet 00_scope.md R5 -/
  cfgOk : s.cfg.wellFormed = true
  /-- the buffer list is in its canonical form -/
  memRising : s.mem.wf
  /-- every byte written lies in `buf[0 .. BUF_SIZE)` (20_memory.md R70, R71) -/
  memInBuffer : ∀ c ∈ s.mem, c.1 < s.cfg.bufSize
  /-- an issue clears DONE and only a completion sets it (10_state.md R28, 60_exceptions.md R241) -/
  busyNotDone : s.phase = .busy → s.done = false
  /-- `CMD` shows the word of the command in flight (10_state.md R33-R35) -/
  busyCmd : s.phase = .busy → s.cmd = s.latch.cmd
  /-- TRUNC is set only beside BUFFER_TOO_LARGE and `RES_LEN = MAX_FRAME` (10_state.md R29, R60) -/
  truncCode : s.trunc = true → s.code = .bufferTooLarge ∧ s.resLen.toNat = s.cfg.maxFrame
  /-- `RES_LEN` is the length of a region of the buffer (10_state.md R40) -/
  resLenFits : s.resLen.toNat ≤ s.cfg.bufSize
  /-- `PRS_*` are all 0 or describe a payload region inside the buffer (10_state.md R46-R51, 42_frame.md
  R206) -/
  prsCoherent : s.prs = .zero ∨
    (s.prs.len.toNat = s.prs.payLen.toNat + 4 ∧ 14 ≤ s.prs.payOff.toNat ∧
      s.prs.payOff.toNat + s.prs.len.toNat ≤ s.cfg.bufSize)
  /-- while `rst_n = 0` every state element holds its reset value (70_reset_and_hazards.md R260). The
  zero latch and the zero `rdata` of that state are the model's choices, not R260's (DESIGN CHOICE,
  notes/assumptions/3.md, unsafe, and 4.md, unsafe). -/
  heldInReset : s.rstN = false →
    s = { State.reset with cfg := s.cfg, rstN := false, epoch := s.epoch, sched := s.sched }

/-- Every byte of the buffer reads as before. -/
def BufferSame (s t : State) : Prop := ∀ a, t.readByte a = s.readByte a

/-- Every byte of the buffer outside `buf[p .. p+n)` reads as before. -/
def BufferSameOutside (s t : State) (p n : Nat) : Prop :=
  ∀ a, a < p ∨ p + n ≤ a → t.readByte a = s.readByte a

/-- What breaks the serialisation rule while a command runs (10_state.md R30): a write to `CMD`, or any
access to the window; also at or beyond `BUF_SIZE` (DEDUCED, notes/assumptions/14.md, unsafe). -/
def Access.Breaches : Access → Prop
  | .read off => 0x1000 ≤ off.toNat
  | .write off _ _ => 0x1000 ≤ off.toNat ∨ off.toNat / 4 = 3

/-- A write to the register at a word offset with the data bit `k` set. -/
def Access.SetsBit (a : Access) (offset k : Nat) : Prop :=
  ∃ off wdata strb, a = .write off wdata strb ∧ off.toNat / 4 = offset / 4 ∧ wdata.getLsbD k = true

/-- A write to `CMD` (10_state.md R33, R34). -/
def Access.WritesCmd (a : Access) : Prop :=
  ∃ off wdata strb, a = .write off wdata strb ∧ off.toNat / 4 = 3

/-- It is the engine's turn (00_scope.md R9). -/
def State.EngineNext (s : State) : Prop := s.sched = [] ∨ ∃ l, s.sched = .engine :: l

/-- `rst_n` is driven low next (70_reset_and_hazards.md R260). -/
def State.ResetNext (s : State) : Prop := ∃ l, s.sched = .rstN false :: l

/-- The value of four bytes at a buffer offset under `CRC_ORDER` (00_scope.md R7, 41_checksum.md R165):
little-endian for `LE`, big-endian for `BE`. -/
def State.storedChecksum (s : State) (a : Nat) : Nat :=
  match s.cfg.crcOrder with
  | .le => (s.readByte a).toNat + 2 ^ 8 * (s.readByte (a + 1)).toNat +
      2 ^ 16 * (s.readByte (a + 2)).toNat + 2 ^ 24 * (s.readByte (a + 3)).toNat
  | .be => 2 ^ 24 * (s.readByte a).toNat + 2 ^ 16 * (s.readByte (a + 1)).toNat +
      2 ^ 8 * (s.readByte (a + 2)).toNat + (s.readByte (a + 3)).toNat

/-- Byte `i` of the frame that a BUILD in state `s` with the checksum `c` assembles (30_encoding.md
R105, 42_frame.md R190): addresses, `be16(n + 4)`, payload, checksum, zero-fill. -/
def State.frameByteAt (s : State) (c : Word) (i : Nat) : Byte :=
  if i < 12 then (s.latch.cfgDst.bytes ++ s.latch.cfgSrc.bytes).getD i 0
  else if i = 12 then BitVec.ofNat 8 ((s.srcCount + 4) / 256)
  else if i = 13 then BitVec.ofNat 8 ((s.srcCount + 4) % 256)
  else if i < 14 + s.srcCount then s.readByte (s.srcAt + (i - 14))
  else if i < 18 + s.srcCount then
    match s.cfg.crcOrder with
    | .le => BitVec.ofNat 8 (c.toNat / 256 ^ (i - (14 + s.srcCount)))
    | .be => BitVec.ofNat 8 (c.toNat / 256 ^ (17 + s.srcCount - i))
  else 0

end Sys2Proof.Machine
end

