-- ==== Sys2Proof/Certificates/Slice0/Obligations.lean ====
section
/-! DEFINITION. The statements for the provers. Each docstring names the rule of spec/ it formalises.
`exec i s` is the completion step of the command `i` in the state `s`; the operands it reads are the
latch's. -/

open Sys2Proof Sys2Proof.Machine

/-! ### Encoding -/

/-- 30_encoding.md R102: the six command words, written out from the table, and the reserved words of
95_test_vectors.md V21-V21e (R103). -/
def Obligations.DecoderReadsTheSixCommandWords : Prop :=
  decode 0x00000001 = .ok .pad ∧ decode 0x00000002 = .ok .unpad ∧ decode 0x00000003 = .ok .crc ∧
  decode 0x00000004 = .ok .verify ∧ decode 0x00000005 = .ok .build ∧ decode 0x00000006 = .ok .parse ∧
  decode 0x00000000 = .error (.reservedOpcode 0) ∧ decode 0x00000007 = .error (.reservedOpcode 7) ∧
  decode 0x0000000F = .error (.reservedOpcode 15) ∧ decode 0x00000011 = .error (.reservedBits 1) ∧
  decode 0x80000005 = .error (.reservedBits 0x8000000)

/-- 30_encoding.md R101, R102: the decoder gives a command back from its word, and no other word gives
that command. -/
def Obligations.DecodeAndEncodeAgree : Prop :=
  ∀ (i : Instr) (w : Word), i.wellFormed = true →
    decode (encode i) = .ok i ∧ (decode w = .ok i → w = encode i)

/-- 30_encoding.md R101: a latched word is legal exactly when `w[31:4] = 0` and `w[3:0]` is one of
0x1..0x6; then the completion step is that of its command, and otherwise it completes with
`ILLEGAL_CMD`. -/
def Obligations.LegalWordsRunAndOthersAreIllegal : Prop :=
  ∀ (s : State) (rsv : BitVec 28) (op : BitVec 4),
    rsv = s.latch.cmd.extractLsb' 4 28 → op = s.latch.cmd.extractLsb' 0 4 →
    (rsv = 0 ∧ 1 ≤ op.toNat ∧ op.toNat ≤ 6 →
      ∃ i : Instr, i.opcode = op ∧ engineStep s = exec i s) ∧
    (¬ (rsv = 0 ∧ 1 ≤ op.toNat ∧ op.toNat ≤ 6) →
      engineStep s =
        .next { s with code := .illegalCmd, trunc := false, done := true, phase := .idle })

/-! ### The step -/

/-- 20_memory.md R80, 00_scope.md R9: when the latched word decodes to a well-formed command and it is
the engine's turn, a step is that command's completion, the turn taken off the schedule (the schedule
is the model's own, notes/assumptions/1.md). -/
def Obligations.StepRunsTheDecodedCommand : Prop :=
  ∀ (s : State) (i : Instr) (l : List Turn),
    s.cfg.wellFormed = true → s.phase = .busy → s.rstN = true → decode s.latch.cmd = .ok i →
    i.wellFormed = true →
    (s.sched = [] → step s = exec i s) ∧
    (s.sched = .engine :: l → step s = exec i { s with sched := l })

/-- 20_memory.md R75, R85: a host transaction at the head of the schedule is one step (the schedule is
the model's own, notes/assumptions/1.md). -/
def Obligations.HostTurnRunsTheTransaction : Prop :=
  ∀ (s : State) (a : Access) (l : List Turn),
    s.cfg.wellFormed = true → s.sched = .host a :: l →
    step s = .next ({ s with sched := l }.busStep a)

/-- 00_scope.md R5: the constraints on the parameters; a configuration that breaks one is refused, and
any other runs (60_exceptions.md R237: no fault, no hang). -/
def Obligations.StepRefusesExactlyTheBadConfigurations : Prop :=
  ∀ s : State,
    ((1 ≤ s.cfg.blockSize ∧ s.cfg.blockSize ≤ 255 ∧
      18 ≤ s.cfg.minFrame ∧ s.cfg.minFrame ≤ s.cfg.maxFrame ∧ s.cfg.maxFrame ≤ s.cfg.bufSize ∧
      (∃ k, s.cfg.bufSize = 2 ^ k) ∧ 64 ≤ s.cfg.bufSize ∧ s.cfg.bufSize ≤ 4096) →
      ∃ t, step s = .next t) ∧
    (¬ (1 ≤ s.cfg.blockSize ∧ s.cfg.blockSize ≤ 255 ∧
      18 ≤ s.cfg.minFrame ∧ s.cfg.minFrame ≤ s.cfg.maxFrame ∧ s.cfg.maxFrame ≤ s.cfg.bufSize ∧
      (∃ k, s.cfg.bufSize = 2 ^ k) ∧ 64 ≤ s.cfg.bufSize ∧ s.cfg.bufSize ≤ 4096) →
      step s = .refused .badConfiguration)

/-- 60_exceptions.md R237, 20_memory.md R80: whatever turns are pending, the machine runs them all, and
one more step leaves no command in flight; and where no reset is pending, the command in flight reaches
its completion step, with the latch and the buffer of its issue (20_memory.md R81), and sets DONE. The
hypothesis rules out the states that no run reaches (`State.Inv.heldInReset`). The schedule is the
model's own choice, notes/assumptions/1.md. -/
def Obligations.EveryIssuedCommandCompletes : Prop :=
  ∀ s : State, s.cfg.wellFormed = true → (s.rstN = false → s.phase = .idle) →
    (∃ t : State, Host.Core.run Sys2Proof.core (s.sched.length + 1) s = .next t ∧
      t.sched = [] ∧ t.phase = .idle) ∧
    (s.phase = .busy → Turn.rstN false ∉ s.sched →
      ∃ (k : Nat) (u v : State), k ≤ s.sched.length ∧
        Host.Core.run Sys2Proof.core k s = .next u ∧ u.phase = .busy ∧ u.EngineNext ∧
        u.latch = s.latch ∧ u.mem = s.mem ∧ u.epoch = s.epoch ∧
        step u = .next v ∧ v.phase = .idle ∧ v.done = true)

/-- The invariant holds at reset (10_state.md R61). -/
def Obligations.ResetStateMeetsTheInvariant : Prop := State.reset.Inv

/-- The invariant `State.Inv` (its fields name their rules) is kept by every step of every agent, from
every state that meets it. In its field `heldInReset` the zero latch and the zero `rdata` are the model's
choices (DESIGN CHOICE, notes/assumptions/3.md and 4.md), not the spec's. -/
def Obligations.EveryStepKeepsTheInvariant : Prop :=
  ∀ s t : State, s.Inv → step s = .next t → t.Inv

/-- 10_state.md R22, R52-R56: `ID` and the `PARAM_*` registers are constants; no step changes what they
read. -/
def Obligations.StepNeverChangesTheParameters : Prop :=
  ∀ s t : State, step s = .next t →
    t.cfg = s.cfg ∧
    ∀ r ∈ [Reg.id, .paramBlock, .paramMinf, .paramMaxf, .paramBuf, .paramCrc],
      t.readReg r = s.readReg r

/-- 70_reset_and_hazards.md R261: once locked, `CTRL.LOCK` and the `CFG_*` registers are cleared or
changed by reset alone, and a reset does clear them. -/
def Obligations.OnlyResetUnlocksTheConfiguration : Prop :=
  ∀ s t : State, step s = .next t → s.lock = true →
    (¬ s.ResetNext → t.lock = true ∧ t.cfgDstLo = s.cfgDstLo ∧ t.cfgDstHi = s.cfgDstHi ∧
      t.cfgSrcLo = s.cfgSrcLo ∧ t.cfgSrcHi = s.cfgSrcHi) ∧
    (s.ResetNext → t.lock = false ∧ t.cfgDstLo = 0 ∧ t.cfgDstHi = 0 ∧ t.cfgSrcLo = 0 ∧
      t.cfgSrcHi = 0)

/-- 10_state.md R59: the result registers change only at a completion step (or at reset). -/
def Obligations.ResultRegistersChangeOnlyAtCompletionOrReset : Prop :=
  ∀ s t : State, step s = .next t →
    ¬ (s.phase = .busy ∧ s.EngineNext) → ¬ s.ResetNext →
    t.resLen = s.resLen ∧ t.crcValue = s.crcValue ∧ t.prs = s.prs ∧ t.code = s.code ∧
      t.trunc = s.trunc

/-- 10_state.md R27, R33: BUSY rises only with a host write to `CMD` and falls only with the completion
step or a reset. -/
def Obligations.BusyRunsFromIssueToCompletion : Prop :=
  ∀ s t : State, step s = .next t →
    (s.phase = .idle → t.phase = .busy →
      ∃ a l, s.sched = .host a :: l ∧ a.WritesCmd ∧ s.rstN = true) ∧
    (s.phase = .busy → t.phase = .idle → (s.rstN = true ∧ s.EngineNext) ∨ s.ResetNext) ∧
    (s.phase = .busy → s.rstN = true → s.EngineNext → t.phase = .idle)

/-- 10_state.md R28: DONE is set by every completion, cleared by an issue and by a write to `STATUS`
with bit 1 set, and changed by nothing else (but reset, R61). -/
def Obligations.DoneIsSetByCompletionAndClearedByIssueOrHost : Prop :=
  ∀ s t : State, step s = .next t → s.rstN = true →
    (s.phase = .busy → s.EngineNext → t.done = true) ∧
    (s.phase = .idle → s.EngineNext → t.done = s.done) ∧
    (∀ a l, s.sched = .host a :: l →
      (s.phase = .idle → a.WritesCmd → t.done = false) ∧
      (s.phase = .busy → a.WritesCmd → t.done = s.done) ∧
      (a.SetsBit 0x008 1 → t.done = false) ∧
      (¬ a.WritesCmd → ¬ a.SetsBit 0x008 1 → t.done = s.done)) ∧
    (∀ l, s.sched = .rstN true :: l → t.done = s.done) ∧
    (s.ResetNext → t.done = false)

/-- 10_state.md R30: OVERRUN is set by a `CMD` write or a window access while busy, cleared by a write to
`STATUS` with bit 3 set, left alone by a completion, and changed by nothing else (but reset, R61). That
a window access at or beyond `BUF_SIZE` is such a breach is the model's reading (DEDUCED,
notes/assumptions/14.md, unsafe with `BUF_SIZE` below 4096). -/
def Obligations.OverrunRecordsExactlyTheBreaches : Prop :=
  ∀ s t : State, step s = .next t → s.rstN = true →
    (s.EngineNext → t.overrun = s.overrun) ∧
    (∀ a l, s.sched = .host a :: l →
      (s.phase = .busy → a.Breaches → t.overrun = true) ∧
      (a.SetsBit 0x008 3 → t.overrun = false) ∧
      (¬ (s.phase = .busy ∧ a.Breaches) → ¬ a.SetsBit 0x008 3 → t.overrun = s.overrun)) ∧
    (∀ l, s.sched = .rstN true :: l → t.overrun = s.overrun) ∧
    (s.ResetNext → t.overrun = false)

/-- 60_exceptions.md R239, R240: `irq` is DONE AND IRQ_EN; a completion with IRQ_EN set raises it, it
rises only at a completion or when the host enables it, and falls only when the host clears DONE, masks
it or issues the next command, or at reset. -/
def Obligations.InterruptLevelChangesOnlyForItsCauses : Prop :=
  ∀ s t : State, step s = .next t →
    (s.irq = true ↔ s.done = true ∧ s.irqEn = true) ∧
    (s.phase = .busy → s.rstN = true → s.EngineNext → s.irqEn = true → t.irq = true) ∧
    (s.irq = false → t.irq = true →
      (s.phase = .busy ∧ s.EngineNext ∧ s.irqEn = true) ∨
      ∃ a l, s.sched = .host a :: l ∧ a.SetsBit 0x004 0 ∧ s.done = true) ∧
    (s.irq = true → t.irq = false →
      (∃ a l, s.sched = .host a :: l ∧
        (a.SetsBit 0x008 1 ∨ a.WritesCmd ∨
          ∃ off wdata strb, a = .write off wdata strb ∧ off.toNat / 4 = 1 ∧
            wdata.getLsbD 0 = false)) ∨
      s.ResetNext)

/-- 10_state.md R57, R61: the latch is never observed while no command is in flight: whatever it holds,
a step gives the same state, but for the latch itself while the block stays idle. -/
def Obligations.LatchIsNeverObservedWhileIdle : Prop :=
  ∀ (s t : State) (x : Latch), s.phase = .idle → step s = .next t →
    step { s with latch := x } = .next t ∨
    (t.phase = .idle ∧ step { s with latch := x } = .next { t with latch := x })

/-- 00_scope.md R10: a command's effect depends only on the latched operands, the buffer contents and the
parameters: two states that agree on these complete with the same code, truncation flag and buffer,
and each result register takes the same value in both or keeps its own in both. -/
def Obligations.CompletionDependsOnlyOnLatchBufferAndParameters : Prop :=
  ∀ (i : Instr) (s u : State), u.cfg = s.cfg → u.latch = s.latch → u.mem = s.mem → u.epoch = s.epoch →
    ∃ s' u', exec i s = .next s' ∧ exec i u = .next u' ∧
      u'.code = s'.code ∧ u'.trunc = s'.trunc ∧ u'.mem = s'.mem ∧
      (u'.resLen = s'.resLen ∨ (s'.resLen = s.resLen ∧ u'.resLen = u.resLen)) ∧
      (u'.crcValue = s'.crcValue ∨ (s'.crcValue = s.crcValue ∧ u'.crcValue = u.crcValue)) ∧
      (u'.prs = s'.prs ∨ (s'.prs = s.prs ∧ u'.prs = u.prs))

/-- 70_reset_and_hazards.md R269, 10_state.md R45: operand and configuration registers may be rewritten
while a command runs: the completion and the write give the same state in either order. -/
def Obligations.OperandWritesDoNotReachTheRunningCommand : Prop :=
  ∀ (s t : State) (i : Instr) (w : Word),
    ∀ r ∈ [Reg.srcPtr, .srcLen, .dstPtr, .dstCap, .cfgDstLo, .cfgDstHi, .cfgSrcLo, .cfgSrcHi],
      exec i s = .next t → exec i (s.writeReg r w) = .next (t.writeReg r w)

/-! ### Reset -/

/-- 10_state.md R61: the values the table states (the unspecified ones, the latch, the buffer and the
accumulator, are left out). -/
def Obligations.ResetStateHoldsTheStatedValues : Prop :=
  State.reset.readReg .id = 0x50F10001 ∧ State.reset.irqEn = false ∧ State.reset.lock = false ∧
  State.reset.phase = .idle ∧ State.reset.done = false ∧ State.reset.trunc = false ∧
  State.reset.overrun = false ∧ State.reset.code.bits = 0 ∧ State.reset.cmd = 0 ∧
  State.reset.srcPtr = 0 ∧ State.reset.srcLen = 0 ∧ State.reset.dstPtr = 0 ∧ State.reset.dstCap = 0 ∧
  State.reset.resLen = 0 ∧ State.reset.crcValue = 0 ∧
  State.reset.cfgDstLo = 0 ∧ State.reset.cfgDstHi = 0 ∧ State.reset.cfgSrcLo = 0 ∧
  State.reset.cfgSrcHi = 0 ∧ State.reset.prs = .zero ∧ State.reset.irq = false ∧
  State.reset.readReg .paramBlock = 16 ∧ State.reset.readReg .paramMinf = 48 ∧
  State.reset.readReg .paramMaxf = 1488 ∧ State.reset.readReg .paramBuf = 4096 ∧
  State.reset.readReg .paramCrc = 0

/-- 70_reset_and_hazards.md R260, R262: driving `rst_n` low is one step from any state, also while busy;
every register then reads its reset value, no command is in flight, no result of the abandoned one is
published, and no byte of the buffer is known. That the free bytes after it are those of the next epoch,
unrelated to those before, is how the model says that neither the old nor the new bytes may be assumed
(DESIGN CHOICE, notes/assumptions/2.md). -/
def Obligations.ResetAbandonsTheCommandInFlight : Prop :=
  ∀ (s : State) (l : List Turn), s.cfg.wellFormed = true → s.sched = .rstN false :: l →
    ∃ t : State, step s = .next t ∧ t.phase = .idle ∧ t.rstN = false ∧ t.cfg = s.cfg ∧ t.irq = false ∧
      t.sched = l ∧ (∀ a, t.mem.get? a = none) ∧ t.epoch = s.epoch + 1 ∧
      (∀ a, t.readByte a = Config.unwrittenByte (s.epoch + 1) a) ∧
      ∀ r : Reg, t.readReg r = { State.reset with cfg := s.cfg }.readReg r

/-- 70_reset_and_hazards.md R260: while `rst_n = 0` reads return 0, writes have no effect and the engine
does nothing. -/
def Obligations.HeldInResetNothingRuns : Prop :=
  ∀ s : State, s.rstN = false →
    (∀ off, s.busStep (.read off) = { s with rdata := 0 }) ∧
    (∀ off wdata strb, s.busStep (.write off wdata strb) = s) ∧
    engineTurn s = .next s

/-! ### The register interface -/

/-- 10_state.md R22-R56: what a host read at each offset of the map returns, `c` the number that
60_exceptions.md R230 gives the result code. A read changes nothing but `rdata`. -/
def Obligations.RegisterReadsReturnTheMap : Prop :=
  ∀ (s : State) (c : Nat), s.cfg.wellFormed = true → s.rstN = true →
    (s.code, c) ∈ [(ResultCode.ok, 0), (.invalidPadding, 1), (.checksumMismatch, 2), (.shortFrame, 3),
      (.frameTooShort, 4), (.bufferTooLarge, 5), (.rangeError, 6), (.illegalCmd, 7)] →
    ∀ p ∈ [((0x000 : Nat), (0x50F10001 : Nat)),
      (0x004, s.irqEn.toNat + 2 * s.lock.toNat),
      (0x008, (if s.phase = .busy then 1 else 0) + 2 * s.done.toNat + 4 * s.trunc.toNat +
        8 * s.overrun.toNat + 16 * c),
      (0x00C, s.cmd.toNat), (0x010, s.srcPtr.toNat), (0x014, s.srcLen.toNat),
      (0x018, s.dstPtr.toNat), (0x01C, s.dstCap.toNat), (0x020, s.resLen.toNat),
      (0x024, s.crcValue.toNat), (0x028, s.cfgDstLo.toNat), (0x02C, s.cfgDstHi.toNat),
      (0x030, s.cfgSrcLo.toNat), (0x034, s.cfgSrcHi.toNat), (0x038, s.prs.dstLo.toNat),
      (0x03C, s.prs.dstHi.toNat), (0x040, s.prs.srcLo.toNat), (0x044, s.prs.srcHi.toNat),
      (0x048, s.prs.len.toNat), (0x04C, s.prs.payOff.toNat), (0x050, s.prs.payLen.toNat),
      (0x054, s.prs.crc.toNat), (0x058, s.cfg.blockSize), (0x05C, s.cfg.minFrame),
      (0x060, s.cfg.maxFrame), (0x064, s.cfg.bufSize),
      (0x068, if s.cfg.crcOrder = .le then 0 else 1)],
      s.busStep (.read (BitVec.ofNat 13 p.1)) = { s with rdata := BitVec.ofNat 32 p.2 }

/-- 10_state.md R23: a reserved offset reads as zero and ignores writes. -/
def Obligations.ReservedOffsetsReadZeroAndIgnoreWrites : Prop :=
  ∀ (s : State) (off : BitVec 13), s.rstN = true → 0x06C ≤ off.toNat → off.toNat < 0x1000 →
    s.busStep (.read off) = { s with rdata := 0 } ∧
    ∀ wdata strb, s.busStep (.write off wdata strb) = s

/-- 20_memory.md R75: the block uses `off[12:2]` and ignores `off[1:0]`; a register write ignores the
strobes. -/
def Obligations.LowOffsetBitsAndRegisterStrobesAreIgnored : Prop :=
  ∀ (s : State) (off off' : BitVec 13), off.extractLsb' 2 11 = off'.extractLsb' 2 11 →
    s.busStep (.read off) = s.busStep (.read off') ∧
    (∀ wdata strb, s.busStep (.write off wdata strb) = s.busStep (.write off' wdata strb)) ∧
    (off.toNat < 0x1000 → ∀ wdata strb strb',
      s.busStep (.write off wdata strb) = s.busStep (.write off wdata strb'))

/-- 10_state.md R23, R36-R39, R59: a write to an operand register stores the bits of the field and drops
the higher ones, idle or busy, and changes nothing else. -/
def Obligations.OperandWritesKeepTheFieldWidth : Prop :=
  ∀ (s : State) (w : Word) (strb : BitVec 4), s.rstN = true →
    s.busStep (.write 0x010 w strb) = { s with srcPtr := BitVec.ofNat 12 (w.toNat % 2 ^ 12) } ∧
    s.busStep (.write 0x014 w strb) = { s with srcLen := BitVec.ofNat 13 (w.toNat % 2 ^ 13) } ∧
    s.busStep (.write 0x018 w strb) = { s with dstPtr := BitVec.ofNat 12 (w.toNat % 2 ^ 12) } ∧
    s.busStep (.write 0x01C w strb) = { s with dstCap := BitVec.ofNat 13 (w.toNat % 2 ^ 13) }

/-- 10_state.md R24-R26: IRQ_EN takes bit 0, LOCK is set by bit 1 and kept by a 0, the reserved bits
ignore writes and read 0. -/
def Obligations.ControlWriteEnablesAndLocks : Prop :=
  ∀ (s : State) (w : Word) (strb : BitVec 4), s.rstN = true →
    s.busStep (.write 0x004 w strb) =
      { s with irqEn := w.getLsbD 0, lock := if w.getLsbD 1 then true else s.lock } ∧
    ∀ k, 2 ≤ k → (s.readReg .ctrl).getLsbD k = false

/-- 10_state.md R32, with R28 and R30: a write to `STATUS` affects only DONE and OVERRUN, each cleared by
its own bit; bits [31:8] read 0. -/
def Obligations.StatusWriteClearsOnlyDoneAndOverrun : Prop :=
  ∀ (s : State) (w : Word) (strb : BitVec 4), s.rstN = true →
    s.busStep (.write 0x008 w strb) =
      { s with done := if w.getLsbD 1 then false else s.done,
               overrun := if w.getLsbD 3 then false else s.overrun } ∧
    ∀ k, 8 ≤ k → (s.readReg .status).getLsbD k = false

/-- 10_state.md R33, R45: a write to `CMD` while idle takes the word and the latch, clears DONE, sets
BUSY and changes nothing else; any word is accepted. -/
def Obligations.CommandWriteWhileIdleIssues : Prop :=
  ∀ (s : State) (w : Word) (strb : BitVec 4), s.rstN = true → s.phase = .idle →
    ∃ t : State, s.busStep (.write 0x00C w strb) = t ∧
      t = { s with cmd := w, latch := t.latch, done := false, phase := .busy } ∧
      t.latch.cmd = w ∧ t.latch.srcPtr = s.srcPtr ∧ t.latch.srcLen = s.srcLen ∧
      t.latch.dstPtr = s.dstPtr ∧ t.latch.dstCap = s.dstCap ∧
      t.latch.cfgDst.bytes = le32 s.cfgDstLo ++ (le32 (s.cfgDstHi.setWidth 32)).take 2 ∧
      t.latch.cfgSrc.bytes = le32 s.cfgSrcLo ++ (le32 (s.cfgSrcHi.setWidth 32)).take 2

/-- 10_state.md R34: a write to `CMD` while busy is ignored and sets OVERRUN. -/
def Obligations.CommandWriteWhileBusyIsDropped : Prop :=
  ∀ (s : State) (w : Word) (strb : BitVec 4), s.rstN = true → s.phase = .busy →
    s.busStep (.write 0x00C w strb) = { s with overrun := true }

/-- 10_state.md R44: a write to a `CFG_*` register is ignored while locked, and accepted otherwise, also
while busy; the latch a running command uses is not touched. -/
def Obligations.ConfigurationWritesObeyTheLock : Prop :=
  ∀ (s : State) (w : Word) (strb : BitVec 4), s.rstN = true →
    (s.lock = true → ∀ off ∈ [(0x028 : BitVec 13), 0x02C, 0x030, 0x034],
      s.busStep (.write off w strb) = s) ∧
    (s.lock = false →
      s.busStep (.write 0x028 w strb) = { s with cfgDstLo := w } ∧
      s.busStep (.write 0x02C w strb) = { s with cfgDstHi := BitVec.ofNat 16 (w.toNat % 2 ^ 16) } ∧
      s.busStep (.write 0x030 w strb) = { s with cfgSrcLo := w } ∧
      s.busStep (.write 0x034 w strb) = { s with cfgSrcHi := BitVec.ofNat 16 (w.toNat % 2 ^ 16) })

/-- 10_state.md R22, R23: the read-only registers ignore writes. -/
def Obligations.ReadOnlyRegistersIgnoreWrites : Prop :=
  ∀ (s : State) (off : BitVec 13) (w : Word) (strb : BitVec 4), s.rstN = true →
    (off.toNat / 4 = 0 ∨ off.toNat / 4 = 8 ∨ off.toNat / 4 = 9 ∨
      (14 ≤ off.toNat / 4 ∧ off.toNat / 4 ≤ 26)) →
    s.busStep (.write off w strb) = s

/-! ### The buffer window -/

/-- 20_memory.md R72, R73: a window read while idle returns the word's four bytes in little-endian lanes,
with 0 for a byte at or beyond `BUF_SIZE`, and changes nothing but `rdata`. -/
def Obligations.WindowReadHasLittleEndianLanes : Prop :=
  ∀ (s : State) (k : Nat) (lane : Nat → Nat), s.rstN = true → s.phase = .idle → k < 0x1000 →
    (∀ i, lane i =
      if 4 * (k / 4) + i < s.cfg.bufSize then (s.readByte (4 * (k / 4) + i)).toNat else 0) →
    s.busStep (.read (BitVec.ofNat 13 (0x1000 + k))) =
      { s with
        rdata := BitVec.ofNat 32 (lane 0 + 2 ^ 8 * lane 1 + 2 ^ 16 * lane 2 + 2 ^ 24 * lane 3) }

/-- 20_memory.md R73: a window write while idle stores byte lane `i` at `buf[j+i]` for each strobe that
is set and each byte below `BUF_SIZE`; every other byte and all other state is unchanged. -/
def Obligations.WindowWriteHonoursTheStrobes : Prop :=
  ∀ (s : State) (k : Nat) (wdata : Word) (strb : BitVec 4), s.rstN = true → s.phase = .idle →
    k < 0x1000 →
    ∃ t : State, s.busStep (.write (BitVec.ofNat 13 (0x1000 + k)) wdata strb) = t ∧
      t = { s with mem := t.mem } ∧
      (∀ i, i < 4 → strb.getLsbD i = true → 4 * (k / 4) + i < s.cfg.bufSize →
        (t.readByte (4 * (k / 4) + i)).toNat = wdata.toNat / 2 ^ (8 * i) % 256) ∧
      (∀ a, ¬ (∃ i, i < 4 ∧ strb.getLsbD i = true ∧ a = 4 * (k / 4) + i ∧ a < s.cfg.bufSize) →
        t.readByte a = s.readByte a)

/-- 20_memory.md R78: while busy a window write is ignored, a window read returns 0, and both set
OVERRUN. That this holds also at or beyond `BUF_SIZE` is the model's reading (DEDUCED,
notes/assumptions/14.md, unsafe with `BUF_SIZE` below 4096). -/
def Obligations.WindowIsClosedWhileBusy : Prop :=
  ∀ (s : State) (off : BitVec 13), s.rstN = true → s.phase = .busy → 0x1000 ≤ off.toNat →
    s.busStep (.read off) = { s with overrun := true, rdata := 0 } ∧
    ∀ wdata strb, s.busStep (.write off wdata strb) = { s with overrun := true }

/-- 30_encoding.md R112: the transactions of `WRB <k>, <bytes>`, run in order while idle, store exactly
those bytes. -/
def Obligations.ScriptWriteBytesStoresExactlyTheBytes : Prop :=
  ∀ (s : State) (k : Nat) (bs : List Byte), s.rstN = true → s.phase = .idle →
    s.cfg.wellFormed = true → k + bs.length ≤ s.cfg.bufSize →
    ∃ t : State, (Script.wrb k bs).foldl State.busStep s = t ∧ t = { s with mem := t.mem } ∧
      (∀ i (h : i < bs.length), t.readByte (k + i) = bs[i]) ∧ BufferSameOutside s t k bs.length

/-! ### The commands -/

/-- 60_exceptions.md R231: a latched word that is not legal completes with `ILLEGAL_CMD`; only `STATUS`
changes, and `CMD` keeps the word. -/
def Obligations.IllegalWordCompletesWithIllegalCmd : Prop :=
  ∀ (s : State) (l : List Turn) (e : DecodeReject), s.cfg.wellFormed = true → s.phase = .busy →
    s.rstN = true → decode s.latch.cmd = .error e → s.sched = .engine :: l →
    step s = .next { s with sched := l, code := .illegalCmd, trunc := false, done := true,
                            phase := .idle }

/-- 40_padding.md R133: PAD, every case. On success the message is followed by `p` bytes of value `p`
and `RES_LEN` is the padded length; a source beyond the buffer, an output above the capacity, and an
output beyond the buffer fail in that order, with `RES_LEN` 0 and no byte written. All other state is
unchanged. -/
def Obligations.PadWritesThePaddedMessage : Prop :=
  ∀ (s : State) (p n : Nat), s.cfg.wellFormed = true →
    p = s.cfg.blockSize - s.srcCount % s.cfg.blockSize → n = s.srcCount + p →
    (s.cfg.bufSize < s.srcAt + s.srcCount →
      exec .pad s = .next { s with resLen := 0, code := .rangeError, trunc := false, done := true,
                                   phase := .idle }) ∧
    (s.srcAt + s.srcCount ≤ s.cfg.bufSize → s.dstCount < n →
      exec .pad s = .next { s with resLen := 0, code := .bufferTooLarge, trunc := false,
                                   done := true, phase := .idle }) ∧
    (s.srcAt + s.srcCount ≤ s.cfg.bufSize → n ≤ s.dstCount → s.cfg.bufSize < s.dstAt + n →
      exec .pad s = .next { s with resLen := 0, code := .rangeError, trunc := false, done := true,
                                   phase := .idle }) ∧
    (s.srcAt + s.srcCount ≤ s.cfg.bufSize → n ≤ s.dstCount → s.dstAt + n ≤ s.cfg.bufSize →
      ∃ t : State, exec .pad s = .next t ∧
        t = { s with mem := t.mem, resLen := t.resLen, code := .ok, trunc := false, done := true,
                     phase := .idle } ∧
        t.resLen.toNat = n ∧
        (∀ i, i < s.srcCount → t.readByte (s.dstAt + i) = s.readByte (s.srcAt + i)) ∧
        (∀ i, i < p → (t.readByte (s.dstAt + (s.srcCount + i))).toNat = p) ∧
        BufferSameOutside s t s.dstAt n)

/-- 40_padding.md R135: UNPAD, every case. No byte of the buffer is written in any. -/
def Obligations.UnpadValidatesAndStripsThePad : Prop :=
  ∀ (s : State) (n v : Nat), n = s.srcCount → v = (s.readByte (s.srcAt + (n - 1))).toNat →
    (s.cfg.bufSize < s.srcAt + n →
      exec .unpad s = .next { s with resLen := 0, code := .rangeError, trunc := false, done := true,
                                     phase := .idle }) ∧
    (s.srcAt + n ≤ s.cfg.bufSize →
      (n = 0 ∨ v = 0 ∨ v > s.cfg.blockSize ∨ v > n ∨
        ∃ i, n - v ≤ i ∧ i < n ∧ (s.readByte (s.srcAt + i)).toNat ≠ v) →
      exec .unpad s = .next { s with resLen := 0, code := .invalidPadding, trunc := false,
                                     done := true, phase := .idle }) ∧
    (s.srcAt + n ≤ s.cfg.bufSize →
      ¬ (n = 0 ∨ v = 0 ∨ v > s.cfg.blockSize ∨ v > n ∨
        ∃ i, n - v ≤ i ∧ i < n ∧ (s.readByte (s.srcAt + i)).toNat ≠ v) →
      exec .unpad s = .next { s with resLen := BitVec.ofNat 13 (n - v), code := .ok, trunc := false,
                                     done := true, phase := .idle })

/-- 41_checksum.md R163: CRC, both cases. `CRC_FN` is applied to the bytes of the region, whatever the
primitive is. -/
def Obligations.CrcComputesTheChecksumOfTheRegion : Prop :=
  ∀ s : State,
    (s.cfg.bufSize < s.srcAt + s.srcCount →
      exec .crc s = .next { s with code := .rangeError, trunc := false, done := true,
                                   phase := .idle }) ∧
    (s.srcAt + s.srcCount ≤ s.cfg.bufSize →
      exec .crc s = .next
        { s with crcValue := crcFn s.cfg
                   ((List.range s.srcCount).map (fun i => s.readByte (s.srcAt + i))),
                 code := .ok, trunc := false, done := true, phase := .idle })

/-- 41_checksum.md R166: VERIFY, every case. The last four bytes of the region are the expected value in
the order `CRC_ORDER`; `CRC_VALUE` takes the recomputed one whether they agree or not. -/
def Obligations.VerifyComparesTheRecomputedChecksum : Prop :=
  ∀ (s : State) (k : Nat) (c : Word), k = s.srcCount - 4 →
    c = crcFn s.cfg ((List.range k).map (fun i => s.readByte (s.srcAt + i))) →
    (s.cfg.bufSize < s.srcAt + s.srcCount →
      exec .verify s = .next { s with code := .rangeError, trunc := false, done := true,
                                      phase := .idle }) ∧
    (s.srcAt + s.srcCount ≤ s.cfg.bufSize → s.srcCount < 4 →
      exec .verify s = .next { s with code := .frameTooShort, trunc := false, done := true,
                                      phase := .idle }) ∧
    (s.srcAt + s.srcCount ≤ s.cfg.bufSize → 4 ≤ s.srcCount →
      c.toNat = s.storedChecksum (s.srcAt + k) →
      exec .verify s = .next { s with crcValue := c, code := .ok, trunc := false, done := true,
                                      phase := .idle }) ∧
    (s.srcAt + s.srcCount ≤ s.cfg.bufSize → 4 ≤ s.srcCount →
      c.toNat ≠ s.storedChecksum (s.srcAt + k) →
      exec .verify s = .next { s with crcValue := c, code := .checksumMismatch, trunc := false,
                                      done := true, phase := .idle })

/-- 42_frame.md R190 (with R191-R197): BUILD, every case, the written frame said byte by byte. A frame
above `MAX_FRAME` is cut there and signalled; the length field keeps the untruncated `n + 4`. -/
def Obligations.BuildWritesTheClampedFrame : Prop :=
  ∀ (s : State) (c : Word) (n : Nat), s.cfg.wellFormed = true →
    c = crcFn s.cfg ((List.range s.srcCount).map (fun i => s.readByte (s.srcAt + i))) →
    n = max s.cfg.minFrame (min (18 + s.srcCount) s.cfg.maxFrame) →
    (s.cfg.bufSize < s.srcAt + s.srcCount ∨ s.cfg.bufSize < s.dstAt + n →
      exec .build s = .next { s with resLen := 0, code := .rangeError, trunc := false, done := true,
                                     phase := .idle }) ∧
    (s.srcAt + s.srcCount ≤ s.cfg.bufSize → s.dstAt + n ≤ s.cfg.bufSize →
      ∃ t : State, exec .build s = .next t ∧
        t = { s with mem := t.mem, resLen := t.resLen, crcValue := c, code := t.code,
                     trunc := t.trunc, done := true, phase := .idle } ∧
        t.resLen.toNat = n ∧
        (18 + s.srcCount ≤ s.cfg.maxFrame → t.code = .ok ∧ t.trunc = false) ∧
        (s.cfg.maxFrame < 18 + s.srcCount → t.code = .bufferTooLarge ∧ t.trunc = true) ∧
        (∀ i, i < n → t.readByte (s.dstAt + i) = s.frameByteAt c i) ∧
        BufferSameOutside s t s.dstAt n)

/-- 42_frame.md R200 (with R201-R203): PARSE, every case, the fields said byte by byte. No byte of the
buffer is written in any. -/
def Obligations.ParseSplitsTheFrame : Prop :=
  ∀ (s : State) (b : Nat → Nat) (d : Nat), s.cfg.wellFormed = true →
    (∀ i, b i = (s.readByte (s.srcAt + i)).toNat) → d = b 12 * 256 + b 13 →
    (s.cfg.bufSize < s.srcAt + s.srcCount →
      exec .parse s = .next { s with prs := .zero, code := .rangeError, trunc := false,
                                     done := true, phase := .idle }) ∧
    (s.srcAt + s.srcCount ≤ s.cfg.bufSize → (s.srcCount < 14 ∨ s.srcCount < 14 + d) →
      exec .parse s = .next { s with prs := .zero, code := .shortFrame, trunc := false,
                                     done := true, phase := .idle }) ∧
    (s.srcAt + s.srcCount ≤ s.cfg.bufSize → 14 + d ≤ s.srcCount → d < 4 →
      exec .parse s = .next { s with prs := .zero, code := .frameTooShort, trunc := false,
                                     done := true, phase := .idle }) ∧
    (s.srcAt + s.srcCount ≤ s.cfg.bufSize → 14 + d ≤ s.srcCount → 4 ≤ d →
      ∃ t : State, exec .parse s = .next t ∧
        t = { s with prs := t.prs, code := .ok, trunc := false, done := true, phase := .idle } ∧
        BufferSame s t ∧
        t.prs.dstLo.toNat = b 0 + 2 ^ 8 * b 1 + 2 ^ 16 * b 2 + 2 ^ 24 * b 3 ∧
        t.prs.dstHi.toNat = b 4 + 2 ^ 8 * b 5 ∧
        t.prs.srcLo.toNat = b 6 + 2 ^ 8 * b 7 + 2 ^ 16 * b 8 + 2 ^ 24 * b 9 ∧
        t.prs.srcHi.toNat = b 10 + 2 ^ 8 * b 11 ∧
        t.prs.len.toNat = d ∧ t.prs.payOff.toNat = s.srcAt + 14 ∧ t.prs.payLen.toNat = d - 4 ∧
        t.prs.crc.toNat = s.storedChecksum (s.srcAt + (14 + (d - 4))))

/-- 10_state.md R60: the table of which result registers each completion writes, and with which code;
every command completes, and writes nothing outside the table. -/
def Obligations.CompletionsWriteOnlyTheirOwnResults : Prop :=
  ∀ (i : Instr) (s : State), ∃ t : State, exec i s = .next t ∧
    t = { s with mem := t.mem, resLen := t.resLen, crcValue := t.crcValue, prs := t.prs,
                 code := t.code, trunc := t.trunc, done := true, phase := .idle } ∧
    (t.trunc = true → i = .build ∧ t.code = .bufferTooLarge) ∧
    (i ≠ .pad → i ≠ .build → t.mem = s.mem) ∧
    (i ≠ .pad → i ≠ .unpad → i ≠ .build → t.resLen = s.resLen) ∧
    (i ≠ .crc → i ≠ .verify → i ≠ .build → t.crcValue = s.crcValue) ∧
    (i ≠ .parse → t.prs = s.prs) ∧
    (t.code = .rangeError ∨ t.code = .frameTooShort → t.crcValue = s.crcValue) ∧
    (t.code ≠ .ok → t.trunc = false → t.mem = s.mem ∧
      (i = .pad ∨ i = .unpad ∨ i = .build → t.resLen = 0) ∧ (i = .parse → t.prs = .zero)) ∧
    (t.code ≠ .illegalCmd) ∧
    (t.code = .invalidPadding → i = .unpad) ∧ (t.code = .checksumMismatch → i = .verify) ∧
    (t.code = .shortFrame → i = .parse) ∧ (t.code = .frameTooShort → i = .verify ∨ i = .parse) ∧
    (t.code = .bufferTooLarge → i = .pad ∨ i = .build)

/-! ### Properties of the commands -/

/-- 40_padding.md R131, R132: the pad size is `B - (n mod B)`, a full block when aligned, always in
`[1, B]`; the padded length is a multiple of `B` and greater than the message's. -/
def Obligations.PadSizeIsAForcedFullBlock : Prop :=
  ∀ blk n : Nat, 1 ≤ blk →
    padSize blk n = blk - n % blk ∧ (n % blk = 0 → padSize blk n = blk) ∧
    1 ≤ padSize blk n ∧ padSize blk n ≤ blk ∧
    (n + padSize blk n) % blk = 0 ∧ n < n + padSize blk n

/-- 40_padding.md R134: PAD reads nothing outside its message region (two states that agree on the
latch, the parameters and the region's bytes get the same code, length and output bytes) and writes
nothing outside `buf[L.dst_ptr .. L.dst_ptr + n)`. -/
def Obligations.PadTouchesOnlyItsRegions : Prop :=
  ∀ s u : State, u.cfg = s.cfg → u.latch = s.latch → s.cfg.wellFormed = true →
    (∀ i, i < s.srcCount → u.readByte (s.srcAt + i) = s.readByte (s.srcAt + i)) →
    ∃ s' u' : State, exec .pad s = .next s' ∧ exec .pad u = .next u' ∧
      u'.code = s'.code ∧ u'.resLen = s'.resLen ∧
      (∀ i, i < s'.resLen.toNat → u'.readByte (s.dstAt + i) = s'.readByte (s.dstAt + i)) ∧
      BufferSameOutside s s' s.dstAt s'.resLen.toNat

/-- 42_frame.md R198: BUILD reads nothing outside its payload region and writes nothing outside
`buf[L.dst_ptr .. L.dst_ptr + N)`. -/
def Obligations.BuildTouchesOnlyItsRegions : Prop :=
  ∀ s u : State, u.cfg = s.cfg → u.latch = s.latch → s.cfg.wellFormed = true →
    (∀ i, i < s.srcCount → u.readByte (s.srcAt + i) = s.readByte (s.srcAt + i)) →
    ∃ s' u' : State, exec .build s = .next s' ∧ exec .build u = .next u' ∧
      u'.code = s'.code ∧ u'.trunc = s'.trunc ∧ u'.resLen = s'.resLen ∧
      (s'.code ≠ .rangeError → u'.crcValue = s'.crcValue) ∧
      (∀ i, i < s'.resLen.toNat → u'.readByte (s.dstAt + i) = s'.readByte (s.dstAt + i)) ∧
      BufferSameOutside s s' s.dstAt s'.resLen.toNat

/-- 40_padding.md R139: PAD of a message in range with enough capacity, then UNPAD of the region it
wrote, gives the message's length and leaves the message at the destination. -/
def Obligations.PadThenUnpadRoundTrips : Prop :=
  ∀ (s : State) (n : Nat), s.cfg.wellFormed = true →
    n = s.srcCount + padSize s.cfg.blockSize s.srcCount →
    s.srcAt + s.srcCount ≤ s.cfg.bufSize → n ≤ s.dstCount → s.dstAt + n ≤ s.cfg.bufSize →
    ∃ t v : State, exec .pad s = .next t ∧ t.code = .ok ∧ t.resLen.toNat = n ∧
      exec .unpad { t with latch := { t.latch with srcPtr := t.latch.dstPtr, srcLen := t.resLen } } =
        .next v ∧
      v.code = .ok ∧ v.resLen.toNat = s.srcCount ∧
      ∀ i, i < s.srcCount → v.readByte (s.dstAt + i) = s.readByte (s.srcAt + i)

/-- 42_frame.md R207: a BUILD that completes `OK`, then PARSE of the frame, then VERIFY of the region
PARSE found: the addresses, the lengths and the checksum come back, and VERIFY completes `OK`, for
every `CRC_FN` and either `CRC_ORDER`. After a truncating BUILD, PARSE completes `SHORT_FRAME`. -/
def Obligations.BuildThenParseThenVerifyRoundTrips : Prop :=
  ∀ s t : State, s.cfg.wellFormed = true → exec .build s = .next t →
    (t.code = .ok → ∃ u v : State,
      exec .parse { t with latch := { t.latch with srcPtr := t.latch.dstPtr, srcLen := t.resLen } } =
        .next u ∧ u.code = .ok ∧
      (Addr.ofRegs u.prs.dstLo u.prs.dstHi) = s.latch.cfgDst ∧
      (Addr.ofRegs u.prs.srcLo u.prs.srcHi) = s.latch.cfgSrc ∧
      u.prs.len.toNat = s.srcCount + 4 ∧ u.prs.payOff.toNat = s.dstAt + 14 ∧
      u.prs.payLen.toNat = s.srcCount ∧ u.prs.crc = crcFn s.cfg s.source ∧
      exec .verify { u with latch := { u.latch with srcPtr := u.prs.payOff.setWidth 12,
                                                    srcLen := u.prs.len.setWidth 13 } } =
        .next v ∧ v.code = .ok ∧ v.crcValue = crcFn s.cfg s.source) ∧
    (t.trunc = true → ∃ u : State,
      exec .parse { t with latch := { t.latch with srcPtr := t.latch.dstPtr,
                                                   srcLen := BitVec.ofNat 13 s.cfg.maxFrame } } =
        .next u ∧ u.code = .shortFrame)

/-- 42_frame.md R197: the frame that a truncating BUILD writes declares more bytes than it holds, so
PARSE of it completes with `SHORT_FRAME` and clears `PRS_*`. -/
def Obligations.TruncatedFrameNeverParses : Prop :=
  ∀ s t : State, s.cfg.wellFormed = true → exec .build s = .next t → t.trunc = true →
    t.resLen.toNat = s.cfg.maxFrame ∧
    ∃ u : State,
      exec .parse { t with latch := { t.latch with srcPtr := t.latch.dstPtr, srcLen := t.resLen } } =
        .next u ∧ u.code = .shortFrame ∧ u.prs = .zero

/-- 42_frame.md R204: the bytes of the frame after offset `14 + D` are ignored: two states that agree on
the latch, the parameters and the bytes before it parse alike. -/
def Obligations.ParseIgnoresBytesAfterTheDeclaredRegion : Prop :=
  ∀ (s u : State) (d : Nat), u.cfg = s.cfg → u.latch = s.latch →
    d = (s.readByte (s.srcAt + 12)).toNat * 256 + (s.readByte (s.srcAt + 13)).toNat →
    (∀ i, i < 14 + d → u.readByte (s.srcAt + i) = s.readByte (s.srcAt + i)) →
    ∃ s' u' : State, exec .parse s = .next s' ∧ exec .parse u = .next u' ∧
      u'.code = s'.code ∧ u'.prs = s'.prs

/-- 42_frame.md R206: when PARSE completes with any code other than `OK`, all eight `PRS_*` registers
read 0. -/
def Obligations.FailingParseClearsTheParseRegisters : Prop :=
  ∀ s : State, ∃ t : State, exec .parse s = .next t ∧
    (t.code ≠ .ok →
      ∀ r ∈ [Reg.prsDstLo, .prsDstHi, .prsSrcLo, .prsSrcHi, .prsLen, .prsPayOff, .prsPayLen, .prsCrc],
        t.readReg r = 0)

/-- 41_checksum.md R168, first part: given a region that VERIFY passes, changing any byte of its last
four makes VERIFY complete with `CHECKSUM_MISMATCH`, for every `CRC_FN`. -/
def Obligations.CorruptedChecksumFieldIsRejected : Prop :=
  ∀ s u t : State, exec .verify s = .next t → t.code = .ok → u.cfg = s.cfg → u.latch = s.latch →
    (∀ i, i < s.srcCount - 4 → u.readByte (s.srcAt + i) = s.readByte (s.srcAt + i)) →
    (∃ i, i < 4 ∧ u.readByte (s.srcAt + (s.srcCount - 4 + i)) ≠
      s.readByte (s.srcAt + (s.srcCount - 4 + i))) →
    ∃ v : State, exec .verify u = .next v ∧ v.code = .checksumMismatch ∧ v.crcValue = t.crcValue

/-- 41_checksum.md R168, second part: for the reference CRC-32, changing one byte of the payload (a
single bit among others) changes the checksum. -/
def Obligations.ReferenceCrcDetectsAnySingleByteChange : Prop :=
  ∀ (pre post : List Byte) (x y : Byte), x ≠ y →
    crcReference (pre ++ x :: post) ≠ crcReference (pre ++ y :: post)

/-- 41_checksum.md R161 and 95_test_vectors.md V10-V10d, V10g: the check values of the reference
instance, and that it is the `CRC_FN` of every configuration that chooses it, the default one among
them (00_scope.md R4). -/
def Obligations.ReferenceCrcGivesTheCheckValues : Prop :=
  crcReference [0x31, 0x32, 0x33, 0x34, 0x35, 0x36, 0x37, 0x38, 0x39] = 0xCBF43926 ∧
  crcReference [] = 0x00000000 ∧ crcReference [0x00] = 0xD202EF8D ∧
  crcReference [0xFF, 0xFF, 0xFF, 0xFF] = 0xFFFFFFFF ∧ crcReference [0x41, 0x42, 0x43] = 0xA3830348 ∧
  crcFn Config.defaults [0x31, 0x32, 0x33, 0x34, 0x35, 0x36, 0x37, 0x38, 0x39] = 0xCBF43926 ∧
  ∀ (c : Config) (b : List Byte), c.crcFn = .reference → crcFn c b = crcReference b

/-- 41_checksum.md R160: every checksum, of CRC, VERIFY and BUILD, is computed afresh from the `n` bytes
of its field, which each starts its region with. Two commands over equal fields, wherever they lie and
whatever ran before, publish one value, `CRC_FN` of the field (a BUILD whose frame does not fit the
buffer publishes none, 10_state.md R41). -/
def Obligations.ChecksumIsSeededAfresh : Prop :=
  ∀ (s u : State) (i j : Instr) (n : Nat), s.cfg.wellFormed = true → u.cfg = s.cfg →
    (i, s.srcCount) ∈ [(Instr.crc, n), (.verify, n + 4), (.build, n)] →
    (j, u.srcCount) ∈ [(Instr.crc, n), (.verify, n + 4), (.build, n)] →
    s.srcAt + s.srcCount ≤ s.cfg.bufSize → u.srcAt + u.srcCount ≤ u.cfg.bufSize →
    (∀ a, a < n → u.readByte (u.srcAt + a) = s.readByte (s.srcAt + a)) →
    ∃ s' u' : State, exec i s = .next s' ∧ exec j u = .next u' ∧
      (s'.code ≠ .rangeError → u'.code ≠ .rangeError →
        u'.crcValue = s'.crcValue ∧
        s'.crcValue = crcFn s.cfg ((List.range n).map (fun a => s.readByte (s.srcAt + a)))) ∧
      (s'.code = .rangeError → i = .build) ∧ (u'.code = .rangeError → j = .build)

/-! ### Turns that do nothing else, and the script's reads -/

/-- 60_exceptions.md R248, 70_reset_and_hazards.md R263: the engine's turn with no command in flight
changes nothing: every register, flag and byte stays, and only the turn is taken off the schedule (the
schedule is the model's own choice, notes/assumptions/1.md and 12.md). -/
def Obligations.IdleEngineTurnChangesNothing : Prop :=
  ∀ s : State, s.cfg.wellFormed = true → s.phase = .idle → s.EngineNext →
    step s = .next { s with sched := s.sched.tail }

/-- 70_reset_and_hazards.md R260: driving `rst_n` high releases the block, from any state, and changes
nothing else; a block released from the reset state of R61 is the idle block that accepts an issue. The
schedule is the model's own choice (notes/assumptions/1.md), and so is that the release is a step of its
own (notes/assumptions/9.md). -/
def Obligations.ReleaseOfResetAcceptsTransactions : Prop :=
  ∀ (s : State) (l : List Turn), s.cfg.wellFormed = true → s.sched = .rstN true :: l →
    ∃ t : State, step s = .next t ∧ t = { s with sched := l, rstN := true } ∧
      (s.phase = .idle → ∀ (w : Word) (strb : BitVec 4),
        (t.busStep (.write 0x00C w strb)).phase = .busy ∧
        (t.busStep (.write 0x00C w strb)).latch.cmd = w)

/-- 30_encoding.md R112: `RDB <k>, <n>`, run while idle, returns exactly the bytes `buf[k .. k+n)`, and
changes nothing but `rdata`. -/
def Obligations.ScriptReadBytesReturnsTheBytes : Prop :=
  ∀ (s : State) (k n : Nat), s.rstN = true → s.phase = .idle →
    s.cfg.wellFormed = true → k + n ≤ s.cfg.bufSize →
    (Script.runRdb s k n).2 = (List.range n).map (fun i => s.readByte (k + i)) ∧
    ∃ v, (Script.runRdb s k n).1 = { s with rdata := v }
end

