-- ==== Sys2Proof/Laws/State.lean ====
section
/-! SUPPORT. One lemma per field per named update of the state, so that no later proof unfolds a record
update. -/

namespace Sys2Proof.Machine

variable (s : State)

/-! ### setOverrun -/

@[simp] theorem State.setOverrun_cfg : (s.setOverrun).cfg = s.cfg := rfl
@[simp] theorem State.setOverrun_irqEn : (s.setOverrun).irqEn = s.irqEn := rfl
@[simp] theorem State.setOverrun_lock : (s.setOverrun).lock = s.lock := rfl
@[simp] theorem State.setOverrun_done : (s.setOverrun).done = s.done := rfl
@[simp] theorem State.setOverrun_trunc : (s.setOverrun).trunc = s.trunc := rfl
@[simp] theorem State.setOverrun_overrun : (s.setOverrun).overrun = true := rfl
@[simp] theorem State.setOverrun_code : (s.setOverrun).code = s.code := rfl
@[simp] theorem State.setOverrun_phase : (s.setOverrun).phase = s.phase := rfl
@[simp] theorem State.setOverrun_cmd : (s.setOverrun).cmd = s.cmd := rfl
@[simp] theorem State.setOverrun_srcPtr : (s.setOverrun).srcPtr = s.srcPtr := rfl
@[simp] theorem State.setOverrun_srcLen : (s.setOverrun).srcLen = s.srcLen := rfl
@[simp] theorem State.setOverrun_dstPtr : (s.setOverrun).dstPtr = s.dstPtr := rfl
@[simp] theorem State.setOverrun_dstCap : (s.setOverrun).dstCap = s.dstCap := rfl
@[simp] theorem State.setOverrun_resLen : (s.setOverrun).resLen = s.resLen := rfl
@[simp] theorem State.setOverrun_crcValue : (s.setOverrun).crcValue = s.crcValue := rfl
@[simp] theorem State.setOverrun_cfgDstLo : (s.setOverrun).cfgDstLo = s.cfgDstLo := rfl
@[simp] theorem State.setOverrun_cfgDstHi : (s.setOverrun).cfgDstHi = s.cfgDstHi := rfl
@[simp] theorem State.setOverrun_cfgSrcLo : (s.setOverrun).cfgSrcLo = s.cfgSrcLo := rfl
@[simp] theorem State.setOverrun_cfgSrcHi : (s.setOverrun).cfgSrcHi = s.cfgSrcHi := rfl
@[simp] theorem State.setOverrun_prs : (s.setOverrun).prs = s.prs := rfl
@[simp] theorem State.setOverrun_latch : (s.setOverrun).latch = s.latch := rfl
@[simp] theorem State.setOverrun_mem : (s.setOverrun).mem = s.mem := rfl
@[simp] theorem State.setOverrun_rdata : (s.setOverrun).rdata = s.rdata := rfl
@[simp] theorem State.setOverrun_rstN : (s.setOverrun).rstN = s.rstN := rfl
@[simp] theorem State.setOverrun_epoch : (s.setOverrun).epoch = s.epoch := rfl
@[simp] theorem State.setOverrun_sched : (s.setOverrun).sched = s.sched := rfl

/-! ### setRdata -/

@[simp] theorem State.setRdata_cfg (v : Word) : (s.setRdata v).cfg = s.cfg := rfl
@[simp] theorem State.setRdata_irqEn (v : Word) : (s.setRdata v).irqEn = s.irqEn := rfl
@[simp] theorem State.setRdata_lock (v : Word) : (s.setRdata v).lock = s.lock := rfl
@[simp] theorem State.setRdata_done (v : Word) : (s.setRdata v).done = s.done := rfl
@[simp] theorem State.setRdata_trunc (v : Word) : (s.setRdata v).trunc = s.trunc := rfl
@[simp] theorem State.setRdata_overrun (v : Word) : (s.setRdata v).overrun = s.overrun := rfl
@[simp] theorem State.setRdata_code (v : Word) : (s.setRdata v).code = s.code := rfl
@[simp] theorem State.setRdata_phase (v : Word) : (s.setRdata v).phase = s.phase := rfl
@[simp] theorem State.setRdata_cmd (v : Word) : (s.setRdata v).cmd = s.cmd := rfl
@[simp] theorem State.setRdata_srcPtr (v : Word) : (s.setRdata v).srcPtr = s.srcPtr := rfl
@[simp] theorem State.setRdata_srcLen (v : Word) : (s.setRdata v).srcLen = s.srcLen := rfl
@[simp] theorem State.setRdata_dstPtr (v : Word) : (s.setRdata v).dstPtr = s.dstPtr := rfl
@[simp] theorem State.setRdata_dstCap (v : Word) : (s.setRdata v).dstCap = s.dstCap := rfl
@[simp] theorem State.setRdata_resLen (v : Word) : (s.setRdata v).resLen = s.resLen := rfl
@[simp] theorem State.setRdata_crcValue (v : Word) : (s.setRdata v).crcValue = s.crcValue := rfl
@[simp] theorem State.setRdata_cfgDstLo (v : Word) : (s.setRdata v).cfgDstLo = s.cfgDstLo := rfl
@[simp] theorem State.setRdata_cfgDstHi (v : Word) : (s.setRdata v).cfgDstHi = s.cfgDstHi := rfl
@[simp] theorem State.setRdata_cfgSrcLo (v : Word) : (s.setRdata v).cfgSrcLo = s.cfgSrcLo := rfl
@[simp] theorem State.setRdata_cfgSrcHi (v : Word) : (s.setRdata v).cfgSrcHi = s.cfgSrcHi := rfl
@[simp] theorem State.setRdata_prs (v : Word) : (s.setRdata v).prs = s.prs := rfl
@[simp] theorem State.setRdata_latch (v : Word) : (s.setRdata v).latch = s.latch := rfl
@[simp] theorem State.setRdata_mem (v : Word) : (s.setRdata v).mem = s.mem := rfl
@[simp] theorem State.setRdata_rdata (v : Word) : (s.setRdata v).rdata = v := rfl
@[simp] theorem State.setRdata_rstN (v : Word) : (s.setRdata v).rstN = s.rstN := rfl
@[simp] theorem State.setRdata_epoch (v : Word) : (s.setRdata v).epoch = s.epoch := rfl
@[simp] theorem State.setRdata_sched (v : Word) : (s.setRdata v).sched = s.sched := rfl

/-! ### complete -/

@[simp] theorem State.complete_cfg (c : ResultCode) (b : Bool) : (s.complete c b).cfg = s.cfg := rfl
@[simp] theorem State.complete_irqEn (c : ResultCode) (b : Bool) : (s.complete c b).irqEn = s.irqEn := rfl
@[simp] theorem State.complete_lock (c : ResultCode) (b : Bool) : (s.complete c b).lock = s.lock := rfl
@[simp] theorem State.complete_done (c : ResultCode) (b : Bool) : (s.complete c b).done = true := rfl
@[simp] theorem State.complete_trunc (c : ResultCode) (b : Bool) : (s.complete c b).trunc = b := rfl
@[simp] theorem State.complete_overrun (c : ResultCode) (b : Bool) : (s.complete c b).overrun = s.overrun := rfl
@[simp] theorem State.complete_code (c : ResultCode) (b : Bool) : (s.complete c b).code = c := rfl
@[simp] theorem State.complete_phase (c : ResultCode) (b : Bool) : (s.complete c b).phase = .idle := rfl
@[simp] theorem State.complete_cmd (c : ResultCode) (b : Bool) : (s.complete c b).cmd = s.cmd := rfl
@[simp] theorem State.complete_srcPtr (c : ResultCode) (b : Bool) : (s.complete c b).srcPtr = s.srcPtr := rfl
@[simp] theorem State.complete_srcLen (c : ResultCode) (b : Bool) : (s.complete c b).srcLen = s.srcLen := rfl
@[simp] theorem State.complete_dstPtr (c : ResultCode) (b : Bool) : (s.complete c b).dstPtr = s.dstPtr := rfl
@[simp] theorem State.complete_dstCap (c : ResultCode) (b : Bool) : (s.complete c b).dstCap = s.dstCap := rfl
@[simp] theorem State.complete_resLen (c : ResultCode) (b : Bool) : (s.complete c b).resLen = s.resLen := rfl
@[simp] theorem State.complete_crcValue (c : ResultCode) (b : Bool) : (s.complete c b).crcValue = s.crcValue := rfl
@[simp] theorem State.complete_cfgDstLo (c : ResultCode) (b : Bool) : (s.complete c b).cfgDstLo = s.cfgDstLo := rfl
@[simp] theorem State.complete_cfgDstHi (c : ResultCode) (b : Bool) : (s.complete c b).cfgDstHi = s.cfgDstHi := rfl
@[simp] theorem State.complete_cfgSrcLo (c : ResultCode) (b : Bool) : (s.complete c b).cfgSrcLo = s.cfgSrcLo := rfl
@[simp] theorem State.complete_cfgSrcHi (c : ResultCode) (b : Bool) : (s.complete c b).cfgSrcHi = s.cfgSrcHi := rfl
@[simp] theorem State.complete_prs (c : ResultCode) (b : Bool) : (s.complete c b).prs = s.prs := rfl
@[simp] theorem State.complete_latch (c : ResultCode) (b : Bool) : (s.complete c b).latch = s.latch := rfl
@[simp] theorem State.complete_mem (c : ResultCode) (b : Bool) : (s.complete c b).mem = s.mem := rfl
@[simp] theorem State.complete_rdata (c : ResultCode) (b : Bool) : (s.complete c b).rdata = s.rdata := rfl
@[simp] theorem State.complete_rstN (c : ResultCode) (b : Bool) : (s.complete c b).rstN = s.rstN := rfl
@[simp] theorem State.complete_epoch (c : ResultCode) (b : Bool) : (s.complete c b).epoch = s.epoch := rfl
@[simp] theorem State.complete_sched (c : ResultCode) (b : Bool) : (s.complete c b).sched = s.sched := rfl

/-! ### setResLen -/

@[simp] theorem State.setResLen_cfg (n : Nat) : (s.setResLen n).cfg = s.cfg := rfl
@[simp] theorem State.setResLen_irqEn (n : Nat) : (s.setResLen n).irqEn = s.irqEn := rfl
@[simp] theorem State.setResLen_lock (n : Nat) : (s.setResLen n).lock = s.lock := rfl
@[simp] theorem State.setResLen_done (n : Nat) : (s.setResLen n).done = s.done := rfl
@[simp] theorem State.setResLen_trunc (n : Nat) : (s.setResLen n).trunc = s.trunc := rfl
@[simp] theorem State.setResLen_overrun (n : Nat) : (s.setResLen n).overrun = s.overrun := rfl
@[simp] theorem State.setResLen_code (n : Nat) : (s.setResLen n).code = s.code := rfl
@[simp] theorem State.setResLen_phase (n : Nat) : (s.setResLen n).phase = s.phase := rfl
@[simp] theorem State.setResLen_cmd (n : Nat) : (s.setResLen n).cmd = s.cmd := rfl
@[simp] theorem State.setResLen_srcPtr (n : Nat) : (s.setResLen n).srcPtr = s.srcPtr := rfl
@[simp] theorem State.setResLen_srcLen (n : Nat) : (s.setResLen n).srcLen = s.srcLen := rfl
@[simp] theorem State.setResLen_dstPtr (n : Nat) : (s.setResLen n).dstPtr = s.dstPtr := rfl
@[simp] theorem State.setResLen_dstCap (n : Nat) : (s.setResLen n).dstCap = s.dstCap := rfl
@[simp] theorem State.setResLen_resLen (n : Nat) : (s.setResLen n).resLen = BitVec.ofNat 13 n := rfl
@[simp] theorem State.setResLen_crcValue (n : Nat) : (s.setResLen n).crcValue = s.crcValue := rfl
@[simp] theorem State.setResLen_cfgDstLo (n : Nat) : (s.setResLen n).cfgDstLo = s.cfgDstLo := rfl
@[simp] theorem State.setResLen_cfgDstHi (n : Nat) : (s.setResLen n).cfgDstHi = s.cfgDstHi := rfl
@[simp] theorem State.setResLen_cfgSrcLo (n : Nat) : (s.setResLen n).cfgSrcLo = s.cfgSrcLo := rfl
@[simp] theorem State.setResLen_cfgSrcHi (n : Nat) : (s.setResLen n).cfgSrcHi = s.cfgSrcHi := rfl
@[simp] theorem State.setResLen_prs (n : Nat) : (s.setResLen n).prs = s.prs := rfl
@[simp] theorem State.setResLen_latch (n : Nat) : (s.setResLen n).latch = s.latch := rfl
@[simp] theorem State.setResLen_mem (n : Nat) : (s.setResLen n).mem = s.mem := rfl
@[simp] theorem State.setResLen_rdata (n : Nat) : (s.setResLen n).rdata = s.rdata := rfl
@[simp] theorem State.setResLen_rstN (n : Nat) : (s.setResLen n).rstN = s.rstN := rfl
@[simp] theorem State.setResLen_epoch (n : Nat) : (s.setResLen n).epoch = s.epoch := rfl
@[simp] theorem State.setResLen_sched (n : Nat) : (s.setResLen n).sched = s.sched := rfl

/-! ### setCrcValue -/

@[simp] theorem State.setCrcValue_cfg (c : Word) : (s.setCrcValue c).cfg = s.cfg := rfl
@[simp] theorem State.setCrcValue_irqEn (c : Word) : (s.setCrcValue c).irqEn = s.irqEn := rfl
@[simp] theorem State.setCrcValue_lock (c : Word) : (s.setCrcValue c).lock = s.lock := rfl
@[simp] theorem State.setCrcValue_done (c : Word) : (s.setCrcValue c).done = s.done := rfl
@[simp] theorem State.setCrcValue_trunc (c : Word) : (s.setCrcValue c).trunc = s.trunc := rfl
@[simp] theorem State.setCrcValue_overrun (c : Word) : (s.setCrcValue c).overrun = s.overrun := rfl
@[simp] theorem State.setCrcValue_code (c : Word) : (s.setCrcValue c).code = s.code := rfl
@[simp] theorem State.setCrcValue_phase (c : Word) : (s.setCrcValue c).phase = s.phase := rfl
@[simp] theorem State.setCrcValue_cmd (c : Word) : (s.setCrcValue c).cmd = s.cmd := rfl
@[simp] theorem State.setCrcValue_srcPtr (c : Word) : (s.setCrcValue c).srcPtr = s.srcPtr := rfl
@[simp] theorem State.setCrcValue_srcLen (c : Word) : (s.setCrcValue c).srcLen = s.srcLen := rfl
@[simp] theorem State.setCrcValue_dstPtr (c : Word) : (s.setCrcValue c).dstPtr = s.dstPtr := rfl
@[simp] theorem State.setCrcValue_dstCap (c : Word) : (s.setCrcValue c).dstCap = s.dstCap := rfl
@[simp] theorem State.setCrcValue_resLen (c : Word) : (s.setCrcValue c).resLen = s.resLen := rfl
@[simp] theorem State.setCrcValue_crcValue (c : Word) : (s.setCrcValue c).crcValue = c := rfl
@[simp] theorem State.setCrcValue_cfgDstLo (c : Word) : (s.setCrcValue c).cfgDstLo = s.cfgDstLo := rfl
@[simp] theorem State.setCrcValue_cfgDstHi (c : Word) : (s.setCrcValue c).cfgDstHi = s.cfgDstHi := rfl
@[simp] theorem State.setCrcValue_cfgSrcLo (c : Word) : (s.setCrcValue c).cfgSrcLo = s.cfgSrcLo := rfl
@[simp] theorem State.setCrcValue_cfgSrcHi (c : Word) : (s.setCrcValue c).cfgSrcHi = s.cfgSrcHi := rfl
@[simp] theorem State.setCrcValue_prs (c : Word) : (s.setCrcValue c).prs = s.prs := rfl
@[simp] theorem State.setCrcValue_latch (c : Word) : (s.setCrcValue c).latch = s.latch := rfl
@[simp] theorem State.setCrcValue_mem (c : Word) : (s.setCrcValue c).mem = s.mem := rfl
@[simp] theorem State.setCrcValue_rdata (c : Word) : (s.setCrcValue c).rdata = s.rdata := rfl
@[simp] theorem State.setCrcValue_rstN (c : Word) : (s.setCrcValue c).rstN = s.rstN := rfl
@[simp] theorem State.setCrcValue_epoch (c : Word) : (s.setCrcValue c).epoch = s.epoch := rfl
@[simp] theorem State.setCrcValue_sched (c : Word) : (s.setCrcValue c).sched = s.sched := rfl

/-! ### setPrs -/

@[simp] theorem State.setPrs_cfg (p : ParseRegs) : (s.setPrs p).cfg = s.cfg := rfl
@[simp] theorem State.setPrs_irqEn (p : ParseRegs) : (s.setPrs p).irqEn = s.irqEn := rfl
@[simp] theorem State.setPrs_lock (p : ParseRegs) : (s.setPrs p).lock = s.lock := rfl
@[simp] theorem State.setPrs_done (p : ParseRegs) : (s.setPrs p).done = s.done := rfl
@[simp] theorem State.setPrs_trunc (p : ParseRegs) : (s.setPrs p).trunc = s.trunc := rfl
@[simp] theorem State.setPrs_overrun (p : ParseRegs) : (s.setPrs p).overrun = s.overrun := rfl
@[simp] theorem State.setPrs_code (p : ParseRegs) : (s.setPrs p).code = s.code := rfl
@[simp] theorem State.setPrs_phase (p : ParseRegs) : (s.setPrs p).phase = s.phase := rfl
@[simp] theorem State.setPrs_cmd (p : ParseRegs) : (s.setPrs p).cmd = s.cmd := rfl
@[simp] theorem State.setPrs_srcPtr (p : ParseRegs) : (s.setPrs p).srcPtr = s.srcPtr := rfl
@[simp] theorem State.setPrs_srcLen (p : ParseRegs) : (s.setPrs p).srcLen = s.srcLen := rfl
@[simp] theorem State.setPrs_dstPtr (p : ParseRegs) : (s.setPrs p).dstPtr = s.dstPtr := rfl
@[simp] theorem State.setPrs_dstCap (p : ParseRegs) : (s.setPrs p).dstCap = s.dstCap := rfl
@[simp] theorem State.setPrs_resLen (p : ParseRegs) : (s.setPrs p).resLen = s.resLen := rfl
@[simp] theorem State.setPrs_crcValue (p : ParseRegs) : (s.setPrs p).crcValue = s.crcValue := rfl
@[simp] theorem State.setPrs_cfgDstLo (p : ParseRegs) : (s.setPrs p).cfgDstLo = s.cfgDstLo := rfl
@[simp] theorem State.setPrs_cfgDstHi (p : ParseRegs) : (s.setPrs p).cfgDstHi = s.cfgDstHi := rfl
@[simp] theorem State.setPrs_cfgSrcLo (p : ParseRegs) : (s.setPrs p).cfgSrcLo = s.cfgSrcLo := rfl
@[simp] theorem State.setPrs_cfgSrcHi (p : ParseRegs) : (s.setPrs p).cfgSrcHi = s.cfgSrcHi := rfl
@[simp] theorem State.setPrs_prs (p : ParseRegs) : (s.setPrs p).prs = p := rfl
@[simp] theorem State.setPrs_latch (p : ParseRegs) : (s.setPrs p).latch = s.latch := rfl
@[simp] theorem State.setPrs_mem (p : ParseRegs) : (s.setPrs p).mem = s.mem := rfl
@[simp] theorem State.setPrs_rdata (p : ParseRegs) : (s.setPrs p).rdata = s.rdata := rfl
@[simp] theorem State.setPrs_rstN (p : ParseRegs) : (s.setPrs p).rstN = s.rstN := rfl
@[simp] theorem State.setPrs_epoch (p : ParseRegs) : (s.setPrs p).epoch = s.epoch := rfl
@[simp] theorem State.setPrs_sched (p : ParseRegs) : (s.setPrs p).sched = s.sched := rfl

/-! ### memWrite -/

@[simp] theorem State.memWrite_cfg (a : Nat) (bs : List Byte) : (s.memWrite a bs).cfg = s.cfg := rfl
@[simp] theorem State.memWrite_irqEn (a : Nat) (bs : List Byte) : (s.memWrite a bs).irqEn = s.irqEn := rfl
@[simp] theorem State.memWrite_lock (a : Nat) (bs : List Byte) : (s.memWrite a bs).lock = s.lock := rfl
@[simp] theorem State.memWrite_done (a : Nat) (bs : List Byte) : (s.memWrite a bs).done = s.done := rfl
@[simp] theorem State.memWrite_trunc (a : Nat) (bs : List Byte) : (s.memWrite a bs).trunc = s.trunc := rfl
@[simp] theorem State.memWrite_overrun (a : Nat) (bs : List Byte) : (s.memWrite a bs).overrun = s.overrun := rfl
@[simp] theorem State.memWrite_code (a : Nat) (bs : List Byte) : (s.memWrite a bs).code = s.code := rfl
@[simp] theorem State.memWrite_phase (a : Nat) (bs : List Byte) : (s.memWrite a bs).phase = s.phase := rfl
@[simp] theorem State.memWrite_cmd (a : Nat) (bs : List Byte) : (s.memWrite a bs).cmd = s.cmd := rfl
@[simp] theorem State.memWrite_srcPtr (a : Nat) (bs : List Byte) : (s.memWrite a bs).srcPtr = s.srcPtr := rfl
@[simp] theorem State.memWrite_srcLen (a : Nat) (bs : List Byte) : (s.memWrite a bs).srcLen = s.srcLen := rfl
@[simp] theorem State.memWrite_dstPtr (a : Nat) (bs : List Byte) : (s.memWrite a bs).dstPtr = s.dstPtr := rfl
@[simp] theorem State.memWrite_dstCap (a : Nat) (bs : List Byte) : (s.memWrite a bs).dstCap = s.dstCap := rfl
@[simp] theorem State.memWrite_resLen (a : Nat) (bs : List Byte) : (s.memWrite a bs).resLen = s.resLen := rfl
@[simp] theorem State.memWrite_crcValue (a : Nat) (bs : List Byte) : (s.memWrite a bs).crcValue = s.crcValue := rfl
@[simp] theorem State.memWrite_cfgDstLo (a : Nat) (bs : List Byte) : (s.memWrite a bs).cfgDstLo = s.cfgDstLo := rfl
@[simp] theorem State.memWrite_cfgDstHi (a : Nat) (bs : List Byte) : (s.memWrite a bs).cfgDstHi = s.cfgDstHi := rfl
@[simp] theorem State.memWrite_cfgSrcLo (a : Nat) (bs : List Byte) : (s.memWrite a bs).cfgSrcLo = s.cfgSrcLo := rfl
@[simp] theorem State.memWrite_cfgSrcHi (a : Nat) (bs : List Byte) : (s.memWrite a bs).cfgSrcHi = s.cfgSrcHi := rfl
@[simp] theorem State.memWrite_prs (a : Nat) (bs : List Byte) : (s.memWrite a bs).prs = s.prs := rfl
@[simp] theorem State.memWrite_latch (a : Nat) (bs : List Byte) : (s.memWrite a bs).latch = s.latch := rfl
@[simp] theorem State.memWrite_mem (a : Nat) (bs : List Byte) : (s.memWrite a bs).mem = s.mem.write a bs := rfl
@[simp] theorem State.memWrite_rdata (a : Nat) (bs : List Byte) : (s.memWrite a bs).rdata = s.rdata := rfl
@[simp] theorem State.memWrite_rstN (a : Nat) (bs : List Byte) : (s.memWrite a bs).rstN = s.rstN := rfl
@[simp] theorem State.memWrite_epoch (a : Nat) (bs : List Byte) : (s.memWrite a bs).epoch = s.epoch := rfl
@[simp] theorem State.memWrite_sched (a : Nat) (bs : List Byte) : (s.memWrite a bs).sched = s.sched := rfl

/-! ### issue -/

@[simp] theorem State.issue_cfg (w : Word) : (s.issue w).cfg = s.cfg := rfl
@[simp] theorem State.issue_irqEn (w : Word) : (s.issue w).irqEn = s.irqEn := rfl
@[simp] theorem State.issue_lock (w : Word) : (s.issue w).lock = s.lock := rfl
@[simp] theorem State.issue_done (w : Word) : (s.issue w).done = false := rfl
@[simp] theorem State.issue_trunc (w : Word) : (s.issue w).trunc = s.trunc := rfl
@[simp] theorem State.issue_overrun (w : Word) : (s.issue w).overrun = s.overrun := rfl
@[simp] theorem State.issue_code (w : Word) : (s.issue w).code = s.code := rfl
@[simp] theorem State.issue_phase (w : Word) : (s.issue w).phase = .busy := rfl
@[simp] theorem State.issue_cmd (w : Word) : (s.issue w).cmd = w := rfl
@[simp] theorem State.issue_srcPtr (w : Word) : (s.issue w).srcPtr = s.srcPtr := rfl
@[simp] theorem State.issue_srcLen (w : Word) : (s.issue w).srcLen = s.srcLen := rfl
@[simp] theorem State.issue_dstPtr (w : Word) : (s.issue w).dstPtr = s.dstPtr := rfl
@[simp] theorem State.issue_dstCap (w : Word) : (s.issue w).dstCap = s.dstCap := rfl
@[simp] theorem State.issue_resLen (w : Word) : (s.issue w).resLen = s.resLen := rfl
@[simp] theorem State.issue_crcValue (w : Word) : (s.issue w).crcValue = s.crcValue := rfl
@[simp] theorem State.issue_cfgDstLo (w : Word) : (s.issue w).cfgDstLo = s.cfgDstLo := rfl
@[simp] theorem State.issue_cfgDstHi (w : Word) : (s.issue w).cfgDstHi = s.cfgDstHi := rfl
@[simp] theorem State.issue_cfgSrcLo (w : Word) : (s.issue w).cfgSrcLo = s.cfgSrcLo := rfl
@[simp] theorem State.issue_cfgSrcHi (w : Word) : (s.issue w).cfgSrcHi = s.cfgSrcHi := rfl
@[simp] theorem State.issue_prs (w : Word) : (s.issue w).prs = s.prs := rfl
@[simp] theorem State.issue_latch (w : Word) : (s.issue w).latch = s.takeLatch w := rfl
@[simp] theorem State.issue_mem (w : Word) : (s.issue w).mem = s.mem := rfl
@[simp] theorem State.issue_rdata (w : Word) : (s.issue w).rdata = s.rdata := rfl
@[simp] theorem State.issue_rstN (w : Word) : (s.issue w).rstN = s.rstN := rfl
@[simp] theorem State.issue_epoch (w : Word) : (s.issue w).epoch = s.epoch := rfl
@[simp] theorem State.issue_sched (w : Word) : (s.issue w).sched = s.sched := rfl

/-! ### writeCtrl -/

@[simp] theorem State.writeCtrl_cfg (w : Word) : (s.writeCtrl w).cfg = s.cfg := rfl
@[simp] theorem State.writeCtrl_irqEn (w : Word) : (s.writeCtrl w).irqEn = w.getLsbD 0 := rfl
@[simp] theorem State.writeCtrl_lock (w : Word) : (s.writeCtrl w).lock = (s.lock || w.getLsbD 1) := rfl
@[simp] theorem State.writeCtrl_done (w : Word) : (s.writeCtrl w).done = s.done := rfl
@[simp] theorem State.writeCtrl_trunc (w : Word) : (s.writeCtrl w).trunc = s.trunc := rfl
@[simp] theorem State.writeCtrl_overrun (w : Word) : (s.writeCtrl w).overrun = s.overrun := rfl
@[simp] theorem State.writeCtrl_code (w : Word) : (s.writeCtrl w).code = s.code := rfl
@[simp] theorem State.writeCtrl_phase (w : Word) : (s.writeCtrl w).phase = s.phase := rfl
@[simp] theorem State.writeCtrl_cmd (w : Word) : (s.writeCtrl w).cmd = s.cmd := rfl
@[simp] theorem State.writeCtrl_srcPtr (w : Word) : (s.writeCtrl w).srcPtr = s.srcPtr := rfl
@[simp] theorem State.writeCtrl_srcLen (w : Word) : (s.writeCtrl w).srcLen = s.srcLen := rfl
@[simp] theorem State.writeCtrl_dstPtr (w : Word) : (s.writeCtrl w).dstPtr = s.dstPtr := rfl
@[simp] theorem State.writeCtrl_dstCap (w : Word) : (s.writeCtrl w).dstCap = s.dstCap := rfl
@[simp] theorem State.writeCtrl_resLen (w : Word) : (s.writeCtrl w).resLen = s.resLen := rfl
@[simp] theorem State.writeCtrl_crcValue (w : Word) : (s.writeCtrl w).crcValue = s.crcValue := rfl
@[simp] theorem State.writeCtrl_cfgDstLo (w : Word) : (s.writeCtrl w).cfgDstLo = s.cfgDstLo := rfl
@[simp] theorem State.writeCtrl_cfgDstHi (w : Word) : (s.writeCtrl w).cfgDstHi = s.cfgDstHi := rfl
@[simp] theorem State.writeCtrl_cfgSrcLo (w : Word) : (s.writeCtrl w).cfgSrcLo = s.cfgSrcLo := rfl
@[simp] theorem State.writeCtrl_cfgSrcHi (w : Word) : (s.writeCtrl w).cfgSrcHi = s.cfgSrcHi := rfl
@[simp] theorem State.writeCtrl_prs (w : Word) : (s.writeCtrl w).prs = s.prs := rfl
@[simp] theorem State.writeCtrl_latch (w : Word) : (s.writeCtrl w).latch = s.latch := rfl
@[simp] theorem State.writeCtrl_mem (w : Word) : (s.writeCtrl w).mem = s.mem := rfl
@[simp] theorem State.writeCtrl_rdata (w : Word) : (s.writeCtrl w).rdata = s.rdata := rfl
@[simp] theorem State.writeCtrl_rstN (w : Word) : (s.writeCtrl w).rstN = s.rstN := rfl
@[simp] theorem State.writeCtrl_epoch (w : Word) : (s.writeCtrl w).epoch = s.epoch := rfl
@[simp] theorem State.writeCtrl_sched (w : Word) : (s.writeCtrl w).sched = s.sched := rfl

/-! ### writeStatus -/

@[simp] theorem State.writeStatus_cfg (w : Word) : (s.writeStatus w).cfg = s.cfg := rfl
@[simp] theorem State.writeStatus_irqEn (w : Word) : (s.writeStatus w).irqEn = s.irqEn := rfl
@[simp] theorem State.writeStatus_lock (w : Word) : (s.writeStatus w).lock = s.lock := rfl
@[simp] theorem State.writeStatus_done (w : Word) : (s.writeStatus w).done = (s.done && !w.getLsbD 1) := rfl
@[simp] theorem State.writeStatus_trunc (w : Word) : (s.writeStatus w).trunc = s.trunc := rfl
@[simp] theorem State.writeStatus_overrun (w : Word) : (s.writeStatus w).overrun = (s.overrun && !w.getLsbD 3) := rfl
@[simp] theorem State.writeStatus_code (w : Word) : (s.writeStatus w).code = s.code := rfl
@[simp] theorem State.writeStatus_phase (w : Word) : (s.writeStatus w).phase = s.phase := rfl
@[simp] theorem State.writeStatus_cmd (w : Word) : (s.writeStatus w).cmd = s.cmd := rfl
@[simp] theorem State.writeStatus_srcPtr (w : Word) : (s.writeStatus w).srcPtr = s.srcPtr := rfl
@[simp] theorem State.writeStatus_srcLen (w : Word) : (s.writeStatus w).srcLen = s.srcLen := rfl
@[simp] theorem State.writeStatus_dstPtr (w : Word) : (s.writeStatus w).dstPtr = s.dstPtr := rfl
@[simp] theorem State.writeStatus_dstCap (w : Word) : (s.writeStatus w).dstCap = s.dstCap := rfl
@[simp] theorem State.writeStatus_resLen (w : Word) : (s.writeStatus w).resLen = s.resLen := rfl
@[simp] theorem State.writeStatus_crcValue (w : Word) : (s.writeStatus w).crcValue = s.crcValue := rfl
@[simp] theorem State.writeStatus_cfgDstLo (w : Word) : (s.writeStatus w).cfgDstLo = s.cfgDstLo := rfl
@[simp] theorem State.writeStatus_cfgDstHi (w : Word) : (s.writeStatus w).cfgDstHi = s.cfgDstHi := rfl
@[simp] theorem State.writeStatus_cfgSrcLo (w : Word) : (s.writeStatus w).cfgSrcLo = s.cfgSrcLo := rfl
@[simp] theorem State.writeStatus_cfgSrcHi (w : Word) : (s.writeStatus w).cfgSrcHi = s.cfgSrcHi := rfl
@[simp] theorem State.writeStatus_prs (w : Word) : (s.writeStatus w).prs = s.prs := rfl
@[simp] theorem State.writeStatus_latch (w : Word) : (s.writeStatus w).latch = s.latch := rfl
@[simp] theorem State.writeStatus_mem (w : Word) : (s.writeStatus w).mem = s.mem := rfl
@[simp] theorem State.writeStatus_rdata (w : Word) : (s.writeStatus w).rdata = s.rdata := rfl
@[simp] theorem State.writeStatus_rstN (w : Word) : (s.writeStatus w).rstN = s.rstN := rfl
@[simp] theorem State.writeStatus_epoch (w : Word) : (s.writeStatus w).epoch = s.epoch := rfl
@[simp] theorem State.writeStatus_sched (w : Word) : (s.writeStatus w).sched = s.sched := rfl

/-! ### enterReset -/

@[simp] theorem State.enterReset_cfg : s.enterReset.cfg = s.cfg := rfl
@[simp] theorem State.enterReset_irqEn : s.enterReset.irqEn = false := rfl
@[simp] theorem State.enterReset_lock : s.enterReset.lock = false := rfl
@[simp] theorem State.enterReset_done : s.enterReset.done = false := rfl
@[simp] theorem State.enterReset_trunc : s.enterReset.trunc = false := rfl
@[simp] theorem State.enterReset_overrun : s.enterReset.overrun = false := rfl
@[simp] theorem State.enterReset_code : s.enterReset.code = .ok := rfl
@[simp] theorem State.enterReset_phase : s.enterReset.phase = .idle := rfl
@[simp] theorem State.enterReset_cmd : s.enterReset.cmd = 0 := rfl
@[simp] theorem State.enterReset_srcPtr : s.enterReset.srcPtr = 0 := rfl
@[simp] theorem State.enterReset_srcLen : s.enterReset.srcLen = 0 := rfl
@[simp] theorem State.enterReset_dstPtr : s.enterReset.dstPtr = 0 := rfl
@[simp] theorem State.enterReset_dstCap : s.enterReset.dstCap = 0 := rfl
@[simp] theorem State.enterReset_resLen : s.enterReset.resLen = 0 := rfl
@[simp] theorem State.enterReset_crcValue : s.enterReset.crcValue = 0 := rfl
@[simp] theorem State.enterReset_cfgDstLo : s.enterReset.cfgDstLo = 0 := rfl
@[simp] theorem State.enterReset_cfgDstHi : s.enterReset.cfgDstHi = 0 := rfl
@[simp] theorem State.enterReset_cfgSrcLo : s.enterReset.cfgSrcLo = 0 := rfl
@[simp] theorem State.enterReset_cfgSrcHi : s.enterReset.cfgSrcHi = 0 := rfl
@[simp] theorem State.enterReset_prs : s.enterReset.prs = .zero := rfl
@[simp] theorem State.enterReset_latch : s.enterReset.latch = .zero := rfl
@[simp] theorem State.enterReset_mem : s.enterReset.mem = [] := rfl
@[simp] theorem State.enterReset_rdata : s.enterReset.rdata = 0 := rfl
@[simp] theorem State.enterReset_rstN : s.enterReset.rstN = false := rfl
@[simp] theorem State.enterReset_epoch : s.enterReset.epoch = s.epoch + 1 := rfl
@[simp] theorem State.enterReset_sched : s.enterReset.sched = s.sched := rfl

@[simp] theorem State.clearPrs_eq : s.clearPrs = s.setPrs .zero := rfl

theorem State.busy_iff : s.busy = true ↔ s.phase = .busy := by simp [State.busy]

theorem State.busy_eq_false_iff : s.busy = false ↔ s.phase = .idle := by
  cases h : s.phase <;> simp [State.busy, h]

end Sys2Proof.Machine
end

