-- ==== Sys2Proof/Laws/Memory.lean ====
section
/-! SUPPORT. The packet buffer: a read after a write, a write leaves every other byte alone, a write
keeps the canonical form. -/

namespace Sys2Proof.Machine

namespace Memory

@[simp] theorem get?_nil (a : Nat) : Memory.get? [] a = none := rfl

theorem get?_cons (k : Nat) (b : Byte) (m : Memory) (a : Nat) :
    Memory.get? ((k, b) :: m) a = if k = a then some b else Memory.get? m a := rfl

theorem get?_append (m n : Memory) (a : Nat) :
    Memory.get? (m ++ n) a = (Memory.get? m a).or (Memory.get? n a) := by
  induction m with
  | nil => simp
  | cons c m ih =>
    obtain ⟨k, b⟩ := c
    by_cases h : k = a <;> simp [get?_cons, h, ih]

theorem get?_filter (p : Nat → Bool) (m : Memory) (a : Nat) :
    Memory.get? (m.filter (fun c => p c.1)) a = if p a then Memory.get? m a else none := by
  induction m with
  | nil => simp
  | cons c m ih =>
    obtain ⟨k, b⟩ := c
    by_cases hk : k = a
    · subst hk
      by_cases hp : p k <;> simp [hp, get?_cons, ih]
    · by_cases hp : p k <;> simp [hp, get?_cons, ih, hk]

theorem get?_cells (s : List Byte) : ∀ a k, Memory.get? (Memory.cells a s) k =
    if a ≤ k then s[k - a]? else none := by
  induction s with
  | nil => intro a k; simp [Memory.cells]
  | cons b s ih =>
    intro a k
    rw [Memory.cells, get?_cons, ih]
    rcases Nat.lt_trichotomy k a with h | h | h
    · rw [if_neg (by omega), if_neg (by omega), if_neg (by omega)]
    · subst h; simp
    · rw [if_neg (by omega), if_pos (by omega), if_pos (by omega)]
      obtain ⟨d, rfl⟩ : ∃ d, k = a + 1 + d := ⟨k - (a + 1), by omega⟩
      rw [show a + 1 + d - (a + 1) = d by omega, show a + 1 + d - a = d + 1 by omega]
      simp

/-- What an offset holds after a write: the byte written there, or what it held before. -/
theorem get?_write (m : Memory) (a : Nat) (s : List Byte) (k : Nat) :
    (m.write a s).get? k = if a ≤ k ∧ k < a + s.length then s[k - a]? else m.get? k := by
  unfold Memory.write
  rw [get?_append, get?_append, get?_filter (fun k => decide (k < a)),
    get?_filter (fun k => decide (a + s.length ≤ k)), get?_cells]
  rcases Nat.lt_or_ge k a with h | h
  · simp [h, Nat.not_le.mpr h, show ¬ a + s.length ≤ k by omega]
  · rcases Nat.lt_or_ge k (a + s.length) with h' | h'
    · have h3 : k - a < s.length := by omega
      simp [h, h', h3, Nat.not_lt.mpr h]
    · have : s[k - a]? = none := List.getElem?_eq_none (by omega)
      simp [h, h', Nat.not_lt.mpr h, Nat.not_lt.mpr h', this]

theorem mem_cells {s : List Byte} : ∀ {a : Nat} {c : Host.Cell}, c ∈ Memory.cells a s →
    a ≤ c.1 ∧ c.1 < a + s.length := by
  induction s with
  | nil => intro a c h; simp [Memory.cells] at h
  | cons b s ih =>
    intro a c h
    rw [Memory.cells, List.mem_cons] at h
    rcases h with rfl | h
    · simp
    · have := ih h
      simp only [List.length_cons]
      omega

theorem cells_wf (s : List Byte) : ∀ a, (Memory.cells a s).wf := by
  induction s with
  | nil => intro a; exact List.Pairwise.nil
  | cons b s ih =>
    intro a
    refine List.Pairwise.cons (fun c hc => ?_) (ih (a + 1))
    have := mem_cells hc
    simp only
    omega

/-- A write keeps the canonical form. -/
theorem write_wf {m : Memory} (h : m.wf) (a : Nat) (s : List Byte) : (m.write a s).wf := by
  refine List.pairwise_append.mpr ⟨List.pairwise_append.mpr ⟨h.filter _, cells_wf s a, ?_⟩,
    h.filter _, ?_⟩
  · intro x hx y hy
    have h1 := mem_cells hy
    have h2 : x.1 < a := by simpa using (List.mem_filter.mp hx).2
    omega
  · intro x hx y hy
    have h2 : a + s.length ≤ y.1 := by simpa using (List.mem_filter.mp hy).2
    rcases List.mem_append.mp hx with hx | hx
    · have h1 : x.1 < a := by simpa using (List.mem_filter.mp hx).2
      omega
    · have h1 := mem_cells hx
      omega

/-- A cell after a write is one of the written cells or was there before. -/
theorem mem_write {m : Memory} {a : Nat} {s : List Byte} {c : Host.Cell} (h : c ∈ m.write a s) :
    (a ≤ c.1 ∧ c.1 < a + s.length) ∨ c ∈ m := by
  rcases List.mem_append.mp h with h | h
  · rcases List.mem_append.mp h with h | h
    · exact .inr (List.mem_filter.mp h).1
    · exact .inl (mem_cells h)
  · exact .inr (List.mem_filter.mp h).1

end Memory

variable (s : State)

/-- Reading a byte after a write: the byte written, or the byte read before. -/
theorem State.readByte_memWrite (a : Nat) (bs : List Byte) (k : Nat) :
    (s.memWrite a bs).readByte k =
      if h : a ≤ k ∧ k < a + bs.length then bs[k - a]'(by omega) else s.readByte k := by
  unfold State.readByte
  rw [State.memWrite_mem, Memory.get?_write]
  by_cases h : a ≤ k ∧ k < a + bs.length
  · have h' : k - a < bs.length := by omega
    simp [h, h']
  · simp [h]

theorem State.readByte_memWrite_at (a : Nat) (bs : List Byte) (i : Nat) (h : i < bs.length) :
    (s.memWrite a bs).readByte (a + i) = bs[i] := by
  rw [State.readByte_memWrite, dif_pos (by omega)]
  simp

theorem State.readByte_memWrite_other (a : Nat) (bs : List Byte) (k : Nat)
    (h : k < a ∨ a + bs.length ≤ k) : (s.memWrite a bs).readByte k = s.readByte k := by
  rw [State.readByte_memWrite, dif_neg (by omega)]

/-- A byte read depends on the buffer and its epoch alone. -/
theorem State.readByte_congr {s t : State} (hm : t.mem = s.mem) (he : t.epoch = s.epoch) (k : Nat) :
    t.readByte k = s.readByte k := by
  unfold State.readByte
  rw [hm, he]

@[simp] theorem State.readByte_complete (c : ResultCode) (b : Bool) (k : Nat) :
    (s.complete c b).readByte k = s.readByte k := rfl

@[simp] theorem State.readByte_setResLen (n k : Nat) :
    (s.setResLen n).readByte k = s.readByte k := rfl

@[simp] theorem State.readByte_setCrcValue (c : Word) (k : Nat) :
    (s.setCrcValue c).readByte k = s.readByte k := rfl

@[simp] theorem State.readByte_setPrs (p : ParseRegs) (k : Nat) :
    (s.setPrs p).readByte k = s.readByte k := rfl

@[simp] theorem State.length_memRead (a n : Nat) : (s.memRead a n).length = n := by
  simp [State.memRead]

@[simp] theorem State.getElem_memRead (a n i : Nat) (h : i < (s.memRead a n).length) :
    (s.memRead a n)[i] = s.readByte (a + i) := by
  simp [State.memRead]

@[simp] theorem State.length_source : s.source.length = s.srcCount := by
  simp [State.source]

@[simp] theorem State.getElem_source (i : Nat) (h : i < s.source.length) :
    s.source[i] = s.readByte (s.srcAt + i) := by
  simp [State.source]

/-- Two states that agree on the bytes of a region read the same sequence from it. -/
theorem State.memRead_congr {s t : State} {a b n : Nat}
    (h : ∀ i, i < n → s.readByte (a + i) = t.readByte (b + i)) : s.memRead a n = t.memRead b n := by
  apply List.ext_getElem
  · simp
  · intro i h1 h2
    have h1' : i < n := by simpa using h1
    simp only [State.getElem_memRead]
    exact h i h1'

end Sys2Proof.Machine
end

