-- ==== Sys2Proof/Laws/Bus.lean ====
section
/-! SUPPORT. What one bus transaction can do, said once: which register an offset names, which access
reaches the window, and the frame of a window write. -/

namespace Sys2Proof.Machine

theorem regAt_offset (r : Reg) : regAt r.offset = some r := by cases r <;> decide

theorem offset_of_regAt {n : Nat} {r : Reg} (h : regAt n = some r) : r.offset = n := by
  simpa using List.find?_some h

/-- A register's offset is a multiple of 4 below 0x6C (10_state.md R23). -/
theorem Reg.offset_lt (r : Reg) : r.offset % 4 = 0 ∧ r.offset < 0x06C := by cases r <;> decide

theorem regAt_eq_some_iff {n : Nat} {r : Reg} : regAt n = some r ↔ r.offset = n :=
  ⟨offset_of_regAt, fun h => h ▸ regAt_offset r⟩

theorem regAt_eq_none {n : Nat} (h : 0x06C ≤ n) : regAt n = none := by
  rw [Option.eq_none_iff_forall_ne_some]
  intro r hr
  have := offset_of_regAt hr
  have := r.offset_lt
  omega

theorem wordOffset_of_lt {off : BitVec 13} (h : off.toNat < 0x1000) :
    wordOffset off = 4 * (off.toNat / 4) := by
  unfold wordOffset
  rw [Nat.mod_eq_of_lt h]

theorem wordOffset_of_window {off : BitVec 13} (h : 0x1000 ≤ off.toNat) :
    wordOffset off = 4 * ((off.toNat - 0x1000) / 4) := by
  have := off.isLt
  unfold wordOffset
  omega

/-- No two registers share a word offset. -/
theorem Reg.eq_of_offset_div {r q : Reg} (h : q.offset / 4 = r.offset / 4) : q = r := by
  revert h
  cases r <;> cases q <;> decide

variable (s : State)

/-! ### A register write, field by field -/

/-- A register write never touches the parameters, the results, the buffer or the schedule. -/
theorem State.writeReg_frame (r : Reg) (w : Word) :
    (s.writeReg r w).cfg = s.cfg ∧ (s.writeReg r w).trunc = s.trunc ∧
      (s.writeReg r w).code = s.code ∧ (s.writeReg r w).resLen = s.resLen ∧
      (s.writeReg r w).crcValue = s.crcValue ∧ (s.writeReg r w).prs = s.prs ∧
      (s.writeReg r w).mem = s.mem ∧ (s.writeReg r w).rstN = s.rstN ∧
      (s.writeReg r w).epoch = s.epoch ∧ (s.writeReg r w).sched = s.sched := by
  cases r <;> simp only [State.writeReg, State.writeCmd] <;> (try split) <;> simp

theorem State.writeReg_phase (r : Reg) (w : Word) :
    (s.writeReg r w).phase = if r = .cmd then .busy else s.phase := by
  cases r <;> simp only [State.writeReg, State.writeCmd] <;> (try split) <;>
    simp_all [State.busy_iff]

theorem State.writeReg_done (r : Reg) (w : Word) :
    (s.writeReg r w).done =
      if r = .cmd then (s.done && s.busy)
      else if r = .status then (s.done && !w.getLsbD 1) else s.done := by
  cases r <;> simp only [State.writeReg, State.writeCmd] <;> (try split) <;> simp_all

theorem State.writeReg_overrun (r : Reg) (w : Word) :
    (s.writeReg r w).overrun =
      if r = .cmd then (s.overrun || s.busy)
      else if r = .status then (s.overrun && !w.getLsbD 3) else s.overrun := by
  cases r <;> simp only [State.writeReg, State.writeCmd] <;> (try split) <;> simp_all

theorem State.writeReg_irqEn (r : Reg) (w : Word) :
    (s.writeReg r w).irqEn = if r = .ctrl then w.getLsbD 0 else s.irqEn := by
  cases r <;> simp only [State.writeReg, State.writeCmd] <;> (try split) <;> simp_all

/-! ### One transaction -/

/-- A read in the register space returns a register's value, or 0 at a reserved offset. -/
theorem State.busStep_read_reg {off : BitVec 13} (hr : s.rstN = true) (h : off.toNat < 0x1000) :
    s.busStep (.read off) =
      s.setRdata (((regAt (4 * (off.toNat / 4))).map s.readReg).getD 0) := by
  have hw : isWindow off = false := by simp [isWindow, h]
  simp only [State.busStep, hr, if_true, State.busRead, hw, wordOffset_of_lt h]
  cases regAt (4 * (off.toNat / 4)) <;> rfl

/-- A write in the register space writes a register, or does nothing at a reserved offset. -/
theorem State.busStep_write_reg {off : BitVec 13} (wdata : Word) (strb : BitVec 4)
    (hr : s.rstN = true) (h : off.toNat < 0x1000) :
    s.busStep (.write off wdata strb) =
      ((regAt (4 * (off.toNat / 4))).map (fun r => s.writeReg r wdata)).getD s := by
  have hw : isWindow off = false := by simp [isWindow, h]
  simp only [State.busStep, hr, if_true, State.busWrite, hw, wordOffset_of_lt h]
  cases regAt (4 * (off.toNat / 4)) <;> rfl

/-- A write at a register's offset writes that register. -/
theorem State.busStep_write_at {off : BitVec 13} {r : Reg} (wdata : Word) (strb : BitVec 4)
    (hr : s.rstN = true) (h : off.toNat / 4 = r.offset / 4) :
    s.busStep (.write off wdata strb) = s.writeReg r wdata := by
  have ho := r.offset_lt
  rw [s.busStep_write_reg wdata strb hr (by omega),
    show 4 * (off.toNat / 4) = r.offset by omega, regAt_offset]
  rfl

/-- A read at a register's offset returns that register's value. -/
theorem State.busStep_read_at {off : BitVec 13} {r : Reg} (hr : s.rstN = true)
    (h : off.toNat / 4 = r.offset / 4) : s.busStep (.read off) = s.setRdata (s.readReg r) := by
  have ho := r.offset_lt
  rw [s.busStep_read_reg hr (by omega), show 4 * (off.toNat / 4) = r.offset by omega, regAt_offset]
  rfl

theorem State.busStep_read_window {off : BitVec 13} (hr : s.rstN = true) (h : 0x1000 ≤ off.toNat) :
    s.busStep (.read off) =
      if s.busy then s.setOverrun.setRdata 0
      else s.setRdata (s.windowWord (4 * ((off.toNat - 0x1000) / 4))) := by
  have hw : isWindow off = true := by simp [isWindow, h]
  have hs : s.busStep (.read off) = s.busRead off := if_pos hr
  rw [hs, State.busRead, if_pos hw, wordOffset_of_window h]

theorem State.busStep_write_window {off : BitVec 13} (wdata : Word) (strb : BitVec 4)
    (hr : s.rstN = true) (h : 0x1000 ≤ off.toNat) :
    s.busStep (.write off wdata strb) =
      if s.busy then s.setOverrun
      else s.writeWindow (4 * ((off.toNat - 0x1000) / 4)) wdata strb := by
  have hw : isWindow off = true := by simp [isWindow, h]
  simp only [State.busStep, hr, if_true, State.busWrite, hw, wordOffset_of_window h]

/-- Every transaction is one of these: nothing or a read of 0 while held in reset, a register read, a
window read, a register write, a window write, or a dropped window access with OVERRUN. -/
theorem State.busStep_cases (a : Access) :
    (s.rstN = false ∧ (s.busStep a = s ∨ s.busStep a = s.setRdata 0)) ∨
    (s.rstN = true ∧
      ((∃ v, (∃ off, a = .read off ∧ (off.toNat < 0x1000 ∨ s.phase = .idle)) ∧
          s.busStep a = s.setRdata v) ∨
        (∃ off wdata strb r, a = .write off wdata strb ∧ off.toNat / 4 = r.offset / 4 ∧
          s.busStep a = s.writeReg r wdata) ∨
        (∃ off wdata strb, a = .write off wdata strb ∧ off.toNat < 0x1000 ∧
          (∀ r : Reg, off.toNat / 4 ≠ r.offset / 4) ∧ s.busStep a = s) ∨
        (∃ off wdata strb, a = .write off wdata strb ∧ 0x1000 ≤ off.toNat ∧ s.phase = .idle ∧
          s.busStep a = s.writeWindow (4 * ((off.toNat - 0x1000) / 4)) wdata strb) ∨
        (∃ off, a = .read off ∧ 0x1000 ≤ off.toNat ∧ s.phase = .busy ∧
          s.busStep a = s.setOverrun.setRdata 0) ∨
        (∃ off wdata strb, a = .write off wdata strb ∧ 0x1000 ≤ off.toNat ∧ s.phase = .busy ∧
          s.busStep a = s.setOverrun))) := by
  rcases Bool.eq_false_or_eq_true s.rstN with hr | hr
  · refine .inr ⟨hr, ?_⟩
    have hp : s.phase = .idle ∨ s.phase = .busy := by cases s.phase <;> simp
    cases a with
    | read off =>
      by_cases h : off.toNat < 0x1000
      · exact .inl ⟨_, ⟨off, rfl, .inl h⟩, s.busStep_read_reg hr h⟩
      · have h' : 0x1000 ≤ off.toNat := by omega
        have hb := s.busStep_read_window hr h'
        rcases hp with hp | hp
        · rw [if_neg (by simp [State.busy, hp])] at hb
          exact .inl ⟨_, ⟨off, rfl, .inr hp⟩, hb⟩
        · rw [if_pos (by simp [State.busy, hp])] at hb
          exact .inr (.inr (.inr (.inr (.inl ⟨off, rfl, h', hp, hb⟩))))
    | write off wdata strb =>
      by_cases h : off.toNat < 0x1000
      · have hb := s.busStep_write_reg wdata strb hr h
        cases hg : regAt (4 * (off.toNat / 4)) with
        | none =>
          refine .inr (.inr (.inl ⟨off, wdata, strb, rfl, h, fun r he => ?_, by rw [hb, hg]; rfl⟩))
          have := r.offset_lt
          rw [show 4 * (off.toNat / 4) = r.offset by omega, regAt_offset] at hg
          cases hg
        | some r =>
          refine .inr (.inl ⟨off, wdata, strb, r, rfl, ?_, by rw [hb, hg]; rfl⟩)
          have := offset_of_regAt hg
          omega
      · have h' : 0x1000 ≤ off.toNat := by omega
        have hb := s.busStep_write_window wdata strb hr h'
        rcases hp with hp | hp
        · rw [if_neg (by simp [State.busy, hp])] at hb
          exact .inr (.inr (.inr (.inl ⟨off, wdata, strb, rfl, h', hp, hb⟩)))
        · rw [if_pos (by simp [State.busy, hp])] at hb
          exact .inr (.inr (.inr (.inr (.inr ⟨off, wdata, strb, rfl, h', hp, hb⟩))))
  · refine .inl ⟨hr, ?_⟩
    have hn : ¬ s.rstN = true := by simp [hr]
    cases a with
    | read off => exact .inr (if_neg hn)
    | write off wdata strb => exact .inl (if_neg hn)

/-! ### The frame of a window write -/

theorem State.writeLane_eq (j : Nat) (wdata : Word) (strb : BitVec 4) (i : Nat) :
    s.writeLane j wdata strb i = { s with mem := (s.writeLane j wdata strb i).mem } := by
  unfold State.writeLane
  split <;> rfl

theorem State.writeWindow_eq (j : Nat) (wdata : Word) (strb : BitVec 4) :
    s.writeWindow j wdata strb = { s with mem := (s.writeWindow j wdata strb).mem } := by
  simp only [State.writeWindow, List.foldl_cons, List.foldl_nil]
  rw [State.writeLane_eq _ j wdata strb 3, State.writeLane_eq _ j wdata strb 2,
    State.writeLane_eq _ j wdata strb 1, State.writeLane_eq s j wdata strb 0]

/-- What a byte reads after the write of one lane. -/
theorem State.readByte_writeLane (j : Nat) (wdata : Word) (strb : BitVec 4) (i a : Nat) :
    (s.writeLane j wdata strb i).readByte a =
      if strb.getLsbD i = true ∧ a = j + i ∧ a < s.cfg.bufSize then byteOf wdata i
      else s.readByte a := by
  unfold State.writeLane
  by_cases hs : strb.getLsbD i = true
  · by_cases hb : j + i < s.cfg.bufSize
    · rw [if_pos (by simp [hs, hb]), State.readByte_memWrite]
      by_cases ha : a = j + i
      · subst ha
        simp [hs, hb]
      · rw [dif_neg (by simp; omega), if_neg (by omega)]
    · rw [if_neg (by simp [hb]), if_neg (by omega)]
  · rw [if_neg (by simp [hs]), if_neg (by simp [hs])]

/-- What a byte reads after a window write: the lane's byte under a set strobe, else as before. -/
theorem State.readByte_writeWindow (j : Nat) (wdata : Word) (strb : BitVec 4) (a : Nat) :
    (s.writeWindow j wdata strb).readByte a =
      if strb.getLsbD 3 = true ∧ a = j + 3 ∧ a < s.cfg.bufSize then byteOf wdata 3
      else if strb.getLsbD 2 = true ∧ a = j + 2 ∧ a < s.cfg.bufSize then byteOf wdata 2
      else if strb.getLsbD 1 = true ∧ a = j + 1 ∧ a < s.cfg.bufSize then byteOf wdata 1
      else if strb.getLsbD 0 = true ∧ a = j + 0 ∧ a < s.cfg.bufSize then byteOf wdata 0
      else s.readByte a := by
  have hc : ∀ (t : State) i, (t.writeLane j wdata strb i).cfg = t.cfg := by
    intro t i
    rw [State.writeLane_eq]
  simp only [State.writeWindow, List.foldl_cons, List.foldl_nil, State.readByte_writeLane, hc]

/-- A transaction never touches the parameters, the results, the reset or the schedule. -/
theorem State.busStep_frame (a : Access) :
    (s.busStep a).cfg = s.cfg ∧ (s.busStep a).trunc = s.trunc ∧ (s.busStep a).code = s.code ∧
      (s.busStep a).resLen = s.resLen ∧ (s.busStep a).crcValue = s.crcValue ∧
      (s.busStep a).prs = s.prs ∧ (s.busStep a).rstN = s.rstN ∧ (s.busStep a).epoch = s.epoch ∧
      (s.busStep a).sched = s.sched := by
  rcases s.busStep_cases a with ⟨-, h | h⟩ | ⟨-, ⟨v, -, h⟩ | ⟨off, w, b, r, -, -, h⟩ |
    ⟨off, w, b, -, -, -, h⟩ | ⟨off, w, b, -, -, -, h⟩ | ⟨off, -, -, -, h⟩ |
    ⟨off, w, b, -, -, -, h⟩⟩ <;> rw [h]
  · simp
  · simp
  · simp
  · have := s.writeReg_frame r w
    tauto
  · simp
  · rw [s.writeWindow_eq]
    simp
  · simp
  · simp

/-- While a command runs, no transaction ends it or reaches its latch or the buffer (10_state.md R34,
20_memory.md R78). -/
theorem State.busStep_busy (hp : s.phase = .busy) (hr : s.rstN = true) (a : Access) :
    (s.busStep a).phase = .busy ∧ (s.busStep a).latch = s.latch ∧ (s.busStep a).mem = s.mem := by
  rcases s.busStep_cases a with ⟨h, -⟩ | ⟨-, ⟨v, -, h⟩ | ⟨off, w, b, r, -, -, h⟩ |
    ⟨off, w, b, -, -, -, h⟩ | ⟨off, w, b, -, -, h, -⟩ | ⟨off, -, -, -, h⟩ |
    ⟨off, w, b, -, -, -, h⟩⟩
  · rw [hr] at h
    cases h
  · rw [h]
    simp [hp]
  · rw [h]
    cases r <;> simp only [State.writeReg, State.writeCmd] <;> (try split) <;>
      simp_all [State.busy]
  · rw [h]
    simp [hp]
  · rw [hp] at h
    cases h
  · rw [h]
    simp [hp]
  · rw [h]
    simp [hp]

theorem State.writeWindow_wf (j : Nat) (wdata : Word) (strb : BitVec 4) (h : s.mem.wf) :
    (s.writeWindow j wdata strb).mem.wf := by
  have hl : ∀ (t : State) i, t.mem.wf → (t.writeLane j wdata strb i).mem.wf := by
    intro t i ht
    unfold State.writeLane
    split
    · exact Memory.write_wf ht _ _
    · exact ht
  simp only [State.writeWindow, List.foldl_cons, List.foldl_nil]
  exact hl _ _ (hl _ _ (hl _ _ (hl _ _ h)))

theorem State.writeWindow_inBuffer (j : Nat) (wdata : Word) (strb : BitVec 4)
    (h : ∀ c ∈ s.mem, c.1 < s.cfg.bufSize) :
    ∀ c ∈ (s.writeWindow j wdata strb).mem, c.1 < s.cfg.bufSize := by
  have hl : ∀ (t : State) i, t.cfg = s.cfg ∧ (∀ c ∈ t.mem, c.1 < s.cfg.bufSize) →
      (t.writeLane j wdata strb i).cfg = s.cfg ∧
        (∀ c ∈ (t.writeLane j wdata strb i).mem, c.1 < s.cfg.bufSize) := by
    rintro t i ⟨hc, ht⟩
    unfold State.writeLane
    split
    · next hb =>
      refine ⟨hc, fun c hm => ?_⟩
      rcases Memory.mem_write hm with h' | h'
      · simp only [Bool.and_eq_true, decide_eq_true_eq] at hb
        simp only [List.length_cons, List.length_nil] at h'
        rw [hc] at hb
        omega
      · exact ht c h'
    · exact ⟨hc, ht⟩
  simp only [State.writeWindow, List.foldl_cons, List.foldl_nil]
  exact (hl _ _ (hl _ _ (hl _ _ (hl _ _ ⟨rfl, h⟩)))).2

end Sys2Proof.Machine
end

