-- ==== Sys2Proof/Laws/Bytes.lean ====
section
/-! SUPPORT. Byte packing: lengths, values, and that reading a packed value back gives it (00_scope.md
R7, 41_checksum.md R165). -/

namespace Sys2Proof.Machine

@[simp] theorem length_le32 (v : Word) : (le32 v).length = 4 := rfl
@[simp] theorem length_be32 (v : Word) : (be32 v).length = 4 := rfl
@[simp] theorem length_be16 (v : BitVec 16) : (be16 v).length = 2 := rfl
@[simp] theorem Addr.length_bytes (a : Addr) : a.bytes.length = 6 := rfl

@[simp] theorem length_cksBytes (o : CrcOrder) (v : Word) : (cksBytes o v).length = 4 := by
  cases o <;> rfl

theorem byteOf_toNat (v : Word) (i : Nat) : (byteOf v i).toNat = v.toNat / 2 ^ (8 * i) % 256 := by
  simp [byteOf, BitVec.extractLsb'_toNat, Nat.shiftRight_eq_div_pow]

theorem leValue_lt (s : List Byte) : leValue s < 256 ^ s.length := by
  induction s with
  | nil => simp [leValue]
  | cons b s ih =>
    have := b.isLt
    simp only [leValue, List.length_cons, pow_succ]
    omega

theorem leValue_le32 (v : Word) : leValue (le32 v) = v.toNat := by
  have := v.isLt
  simp only [le32, leValue, byteOf_toNat]
  omega

theorem beValue_be32 (v : Word) : beValue (be32 v) = v.toNat := by
  have := v.isLt
  simp only [beValue, be32, List.reverse_cons, List.reverse_nil, List.nil_append, List.cons_append,
    leValue, byteOf_toNat]
  omega

theorem beValue_be16 (v : BitVec 16) : beValue (be16 v) = v.toNat := by
  have := v.isLt
  simp only [beValue, be16, List.reverse_cons, List.reverse_nil, List.nil_append, List.cons_append,
    leValue, BitVec.extractLsb'_toNat, Nat.shiftRight_eq_div_pow]
  omega

/-- `cks_value` is the inverse of `cks_bytes`, in either byte order. -/
@[simp] theorem cksValue_cksBytes (o : CrcOrder) (v : Word) : cksValue o (cksBytes o v) = v := by
  cases o
  · simp only [cksValue, cksBytes, unle32, leValue_le32, BitVec.ofNat_toNat, BitVec.setWidth_eq]
  · simp only [cksValue, cksBytes, unbe32, beValue_be32, BitVec.ofNat_toNat, BitVec.setWidth_eq]

theorem leValue_inj : ∀ {s t : List Byte}, s.length = t.length → leValue s = leValue t → s = t := by
  intro s
  induction s with
  | nil => intro t h _; exact (List.eq_nil_of_length_eq_zero h.symm).symm
  | cons b s ih =>
    intro t h hv
    cases t with
    | nil => simp at h
    | cons c t =>
      have hb := b.isLt
      have hc := c.isLt
      simp only [leValue] at hv
      have h1 : b = c := BitVec.eq_of_toNat_eq (by omega)
      have h2 : leValue s = leValue t := by omega
      rw [h1, ih (by simpa using h) h2]

/-- Four bytes are told apart by the value the block reads from them. -/
theorem cksValue_inj (o : CrcOrder) {s t : List Byte} (hs : s.length = 4) (ht : t.length = 4)
    (h : cksValue o s = cksValue o t) : s = t := by
  have hlt : ∀ {u : List Byte}, u.length = 4 → leValue u < 2 ^ 32 := by
    intro u hu
    have := leValue_lt u
    rw [hu] at this
    exact this
  cases o
  · have hv := congrArg BitVec.toNat h
    simp only [cksValue, unle32, BitVec.toNat_ofNat, Nat.mod_eq_of_lt (hlt hs),
      Nat.mod_eq_of_lt (hlt ht)] at hv
    exact leValue_inj (hs.trans ht.symm) hv
  · have hv := congrArg BitVec.toNat h
    have hs' : s.reverse.length = 4 := by simpa using hs
    have ht' : t.reverse.length = 4 := by simpa using ht
    simp only [cksValue, unbe32, beValue, BitVec.toNat_ofNat, Nat.mod_eq_of_lt (hlt hs'),
      Nat.mod_eq_of_lt (hlt ht')] at hv
    exact List.reverse_injective (leValue_inj (hs'.trans ht'.symm) hv)

/-- An address is what its two registers hold (10_state.md R42, R46). -/
theorem Addr.ofRegs_eq {lo : Word} {hi : BitVec 16} {a : Addr}
    (h : lo.toNat = a.b0.toNat + 2 ^ 8 * a.b1.toNat + 2 ^ 16 * a.b2.toNat + 2 ^ 24 * a.b3.toNat)
    (h' : hi.toNat = a.b4.toNat + 2 ^ 8 * a.b5.toNat) : Addr.ofRegs lo hi = a := by
  have := a.b0.isLt
  have := a.b1.isLt
  have := a.b2.isLt
  have := a.b3.isLt
  have := a.b4.isLt
  have := a.b5.isLt
  have e : ∀ (i : Nat) (b : Byte), lo.toNat / 2 ^ (8 * i) % 256 = b.toNat → byteOf lo i = b :=
    fun i b hb => BitVec.eq_of_toNat_eq ((byteOf_toNat lo i).trans hb)
  have e4 : hi.extractLsb' 0 8 = a.b4 := by
    apply BitVec.eq_of_toNat_eq
    rw [BitVec.extractLsb'_toNat, h', Nat.shiftRight_eq_div_pow]
    omega
  have e5 : hi.extractLsb' 8 8 = a.b5 := by
    apply BitVec.eq_of_toNat_eq
    rw [BitVec.extractLsb'_toNat, h', Nat.shiftRight_eq_div_pow]
    omega
  unfold Addr.ofRegs
  rw [e 0 a.b0 (by omega), e 1 a.b1 (by omega), e 2 a.b2 (by omega), e 3 a.b3 (by omega), e4, e5]

@[simp] theorem length_rawFrame (o : CrcOrder) (d a : Addr) (pl : List Byte) (c : Word) :
    (rawFrame o d a pl c).length = 18 + pl.length := by
  simp [rawFrame]
  omega

@[simp] theorem length_physicalFrame (c : Config) (f : List Byte) :
    (physicalFrame c f).length = clampLength c f.length := by
  unfold physicalFrame clampLength
  split
  · simp
    omega
  · split
    · simp
      omega
    · rfl

/-- The clamp of 42_frame.md R195, as a maximum of a minimum. -/
theorem clampLength_eq {c : Config} (h : c.minFrame ≤ c.maxFrame) (t : Nat) :
    clampLength c t = max c.minFrame (min t c.maxFrame) := by
  unfold clampLength
  split
  · omega
  · split <;> omega

/-- A byte of the written frame is that of the unclamped frame, or a zero of the fill. -/
theorem getElem_physicalFrame {c : Config} (f : List Byte) (i : Nat)
    (h : i < (physicalFrame c f).length) : (physicalFrame c f)[i] = f.getD i 0 := by
  rw [List.getD_eq_getElem?_getD]
  unfold physicalFrame at h ⊢
  split
  · rw [List.getElem_append]
    split
    · rw [List.getElem?_eq_getElem ‹_›]
      rfl
    · rw [List.getElem_replicate, List.getElem?_eq_none (by omega)]
      rfl
  · split
    · rw [List.getElem_take, List.getElem?_eq_getElem]
      rfl
    · rw [List.getElem?_eq_getElem]
      rfl

@[simp] theorem length_padded (m : List Byte) (p : Nat) : (padded m p).length = m.length + p := by
  simp [padded]

/-- The pad size lies in `[1, B]` (40_padding.md R131). -/
theorem padSize_bounds {blk : Nat} (h : 1 ≤ blk) (n : Nat) :
    1 ≤ padSize blk n ∧ padSize blk n ≤ blk := by
  have := Nat.mod_lt n h
  unfold padSize
  omega

end Sys2Proof.Machine
end

