-- ==== Sys2Proof/Laws/Crc.lean ====
section
/-! SUPPORT. The reference CRC (41_checksum.md R161): each step of its register is injective, so two
registers that differ stay different whatever bytes follow. -/

namespace Sys2Proof.Machine

/-- The top bit after a step is the bottom bit before it. -/
theorem getLsbD_crcBit (c : Word) : (crcBit c).getLsbD 31 = c.getLsbD 0 := by
  unfold crcBit
  split
  · next h =>
    rw [BitVec.getLsbD_xor, BitVec.getLsbD_ushiftRight, h, BitVec.getLsbD_of_ge _ _ (by omega)]
    decide
  · next h =>
    rw [BitVec.getLsbD_ushiftRight, BitVec.getLsbD_of_ge _ _ (by omega)]
    simp_all

theorem crcBit_injective {a b : Word} (h : crcBit a = crcBit b) : a = b := by
  have h0 : a.getLsbD 0 = b.getLsbD 0 := by rw [← getLsbD_crcBit, ← getLsbD_crcBit, h]
  have hs : a >>> 1 = b >>> 1 := by
    unfold crcBit at h
    rw [h0] at h
    split at h
    · exact (BitVec.xor_left_inj _).mp h
    · exact h
  apply BitVec.eq_of_getLsbD_eq
  intro i hi
  cases i with
  | zero => exact h0
  | succ n =>
    have := congrArg (fun x => x.getLsbD n) hs
    simpa [Nat.add_comm] using this

theorem crcBits_injective (n : Nat) : ∀ {a b : Word},
    Nat.repeat crcBit n a = Nat.repeat crcBit n b → a = b := by
  induction n with
  | zero => exact fun h => h
  | succ n ih => exact fun h => ih (crcBit_injective h)

theorem crcByte_injective_register {a b : Word} (x : Byte) (h : crcByte a x = crcByte b x) :
    a = b :=
  (BitVec.xor_left_inj _).mp (crcBits_injective 8 h)

theorem crcByte_injective_byte (c : Word) {x y : Byte} (h : crcByte c x = crcByte c y) : x = y := by
  have h' := congrArg BitVec.toNat ((BitVec.xor_right_inj _).mp (crcBits_injective 8 h))
  have := x.isLt
  have := y.isLt
  simp at h'
  apply BitVec.eq_of_toNat_eq
  omega

end Sys2Proof.Machine
end

