-- ==== Sys2Proof/Laws/Decode.lean ====
section
/-! SUPPORT. The decoder (30_encoding.md R100-R103): the two fields make the word, and an accepted word
has `RSV` 0 and the opcode of its command. -/

namespace Sys2Proof

/-- A command word is its field `RSV` above its field `OP`. -/
theorem rsvField_append_opField (w : Word) : rsvField w ++ opField w = w := by
  apply BitVec.eq_of_toNat_eq
  have := w.isLt
  rw [rsvField, opField, BitVec.toNat_append, BitVec.extractLsb'_toNat, BitVec.extractLsb'_toNat,
    Nat.shiftRight_eq_div_pow, Nat.shiftRight_zero, Nat.shiftLeft_eq, Nat.mul_comm,
    ← Nat.two_pow_add_eq_or_of_lt (by omega)]
  omega

theorem opcodeInstr_opcode (i : Instr) : opcodeInstr i.opcode = some i := by cases i <;> rfl

theorem opcode_of_opcodeInstr {o : BitVec 4} {i : Instr} (h : opcodeInstr o = some i) :
    o = i.opcode := by
  have key : ∀ i, ∀ o : BitVec 4, opcodeInstr o = some i → o = i.opcode := by
    intro i
    cases i <;> decide
  exact key i o h

/-- An accepted word has `RSV` 0 and the opcode of the command it stands for. -/
theorem fields_of_decode {w : Word} {i : Instr} (h : decode w = .ok i) :
    rsvField w = 0 ∧ opField w = i.opcode := by
  unfold decode at h
  split at h
  · split at h
    · cases h
      exact ⟨‹_›, opcode_of_opcodeInstr ‹_›⟩
    · cases h
  · cases h

end Sys2Proof
end

