-- ==== Sys2Proof/Laws/Exec.lean ====
section
/-! SUPPORT. What a completion can do, said once: every meaning answers a next state, and that state
differs from the one before in the buffer, the result registers and the completion flags alone. -/

namespace Sys2Proof.Machine

/-- The completion step of a command that leaves the buffer `m` and the result registers `r`, `c`,
`p`. -/
def State.completed (s : State) (m : Memory) (r : BitVec 13) (c : Word) (p : ParseRegs)
    (code : ResultCode) (trunc : Bool) : State :=
  { s with mem := m, resLen := r, crcValue := c, prs := p,
           code := code, trunc := trunc, done := true, phase := .idle }

section

variable (s : State) (m : Memory) (r : BitVec 13) (c : Word) (p : ParseRegs) (code : ResultCode)
  (trunc : Bool)

@[simp] theorem State.completed_cfg :
    (s.completed m r c p code trunc).cfg = s.cfg := rfl
@[simp] theorem State.completed_irqEn :
    (s.completed m r c p code trunc).irqEn = s.irqEn := rfl
@[simp] theorem State.completed_lock :
    (s.completed m r c p code trunc).lock = s.lock := rfl
@[simp] theorem State.completed_done :
    (s.completed m r c p code trunc).done = true := rfl
@[simp] theorem State.completed_trunc :
    (s.completed m r c p code trunc).trunc = trunc := rfl
@[simp] theorem State.completed_overrun :
    (s.completed m r c p code trunc).overrun = s.overrun := rfl
@[simp] theorem State.completed_code :
    (s.completed m r c p code trunc).code = code := rfl
@[simp] theorem State.completed_phase :
    (s.completed m r c p code trunc).phase = .idle := rfl
@[simp] theorem State.completed_cmd :
    (s.completed m r c p code trunc).cmd = s.cmd := rfl
@[simp] theorem State.completed_srcPtr :
    (s.completed m r c p code trunc).srcPtr = s.srcPtr := rfl
@[simp] theorem State.completed_srcLen :
    (s.completed m r c p code trunc).srcLen = s.srcLen := rfl
@[simp] theorem State.completed_dstPtr :
    (s.completed m r c p code trunc).dstPtr = s.dstPtr := rfl
@[simp] theorem State.completed_dstCap :
    (s.completed m r c p code trunc).dstCap = s.dstCap := rfl
@[simp] theorem State.completed_resLen :
    (s.completed m r c p code trunc).resLen = r := rfl
@[simp] theorem State.completed_crcValue :
    (s.completed m r c p code trunc).crcValue = c := rfl
@[simp] theorem State.completed_cfgDstLo :
    (s.completed m r c p code trunc).cfgDstLo = s.cfgDstLo := rfl
@[simp] theorem State.completed_cfgDstHi :
    (s.completed m r c p code trunc).cfgDstHi = s.cfgDstHi := rfl
@[simp] theorem State.completed_cfgSrcLo :
    (s.completed m r c p code trunc).cfgSrcLo = s.cfgSrcLo := rfl
@[simp] theorem State.completed_cfgSrcHi :
    (s.completed m r c p code trunc).cfgSrcHi = s.cfgSrcHi := rfl
@[simp] theorem State.completed_prs :
    (s.completed m r c p code trunc).prs = p := rfl
@[simp] theorem State.completed_latch :
    (s.completed m r c p code trunc).latch = s.latch := rfl
@[simp] theorem State.completed_mem :
    (s.completed m r c p code trunc).mem = m := rfl
@[simp] theorem State.completed_rdata :
    (s.completed m r c p code trunc).rdata = s.rdata := rfl
@[simp] theorem State.completed_rstN :
    (s.completed m r c p code trunc).rstN = s.rstN := rfl
@[simp] theorem State.completed_epoch :
    (s.completed m r c p code trunc).epoch = s.epoch := rfl
@[simp] theorem State.completed_sched :
    (s.completed m r c p code trunc).sched = s.sched := rfl

end

/-- The configuration checks of 00_scope.md R5 as inequalities. -/
theorem Config.bounds {c : Config} (h : c.wellFormed = true) :
    1 ≤ c.blockSize ∧ c.blockSize ≤ 255 ∧ 18 ≤ c.minFrame ∧ c.minFrame ≤ c.maxFrame ∧
      c.maxFrame ≤ c.bufSize ∧ 64 ≤ c.bufSize ∧ c.bufSize ≤ 4096 := by
  simp only [Config.wellFormed, Config.blockSizeOk, Config.frameBoundsOk, Config.bufSizeOk,
    Bool.and_eq_true, decide_eq_true_eq, List.contains_eq_mem, List.mem_cons, List.not_mem_nil,
    or_false] at h
  omega

theorem State.sourceInRange_iff (s : State) :
    s.sourceInRange = true ↔ s.srcAt + s.srcCount ≤ s.cfg.bufSize := by
  simp [State.sourceInRange, inRange]

theorem inRange_iff (c : Config) (p n : Nat) : inRange c p n = true ↔ p + n ≤ c.bufSize := by
  simp [inRange]

/-- PAD completes in one of four ways (40_padding.md R133). -/
theorem execPad_cases (s : State) :
    execPad s = .next (s.completed s.mem 0 s.crcValue s.prs .rangeError false) ∨
    execPad s = .next (s.completed s.mem 0 s.crcValue s.prs .bufferTooLarge false) ∨
    (s.srcAt + s.srcCount ≤ s.cfg.bufSize ∧
      s.srcCount + padSize s.cfg.blockSize s.srcCount ≤ s.dstCount ∧
      s.dstAt + (s.srcCount + padSize s.cfg.blockSize s.srcCount) ≤ s.cfg.bufSize ∧
      execPad s = .next (s.completed
        (s.mem.write s.dstAt (padded s.source (padSize s.cfg.blockSize s.srcCount)))
        (BitVec.ofNat 13 (s.srcCount + padSize s.cfg.blockSize s.srcCount)) s.crcValue s.prs .ok
        false)) := by
  unfold execPad
  simp only [State.length_source]
  split
  · split
    · exact .inr (.inl rfl)
    · split
      · refine .inr (.inr ⟨(s.sourceInRange_iff).mp ‹_›, by omega, (inRange_iff ..).mp ‹_›, rfl⟩)
      · exact .inl rfl
  · exact .inl rfl

/-- UNPAD completes in one of three ways (40_padding.md R135, R136). -/
theorem execUnpad_cases (s : State) :
    execUnpad s = .next (s.completed s.mem 0 s.crcValue s.prs .rangeError false) ∨
    execUnpad s = .next (s.completed s.mem 0 s.crcValue s.prs .invalidPadding false) ∨
    (∃ n, s.srcAt + s.srcCount ≤ s.cfg.bufSize ∧
      unpadLength s.cfg.blockSize s.source = some n ∧
      execUnpad s = .next (s.completed s.mem (BitVec.ofNat 13 n) s.crcValue s.prs .ok false)) := by
  unfold execUnpad
  split
  · split
    · next n hn => exact .inr (.inr ⟨n, (s.sourceInRange_iff).mp ‹_›, hn, rfl⟩)
    · exact .inr (.inl rfl)
  · exact .inl rfl

/-- CRC completes in one of two ways (41_checksum.md R163). -/
theorem execCrc_cases (s : State) :
    execCrc s = .next (s.completed s.mem s.resLen s.crcValue s.prs .rangeError false) ∨
    (s.srcAt + s.srcCount ≤ s.cfg.bufSize ∧
      execCrc s = .next (s.completed s.mem s.resLen (crcFn s.cfg s.source) s.prs .ok false)) := by
  unfold execCrc
  split
  · exact .inr ⟨(s.sourceInRange_iff).mp ‹_›, rfl⟩
  · exact .inl rfl

/-- VERIFY completes in one of four ways (41_checksum.md R166). -/
theorem execVerify_cases (s : State) :
    execVerify s = .next (s.completed s.mem s.resLen s.crcValue s.prs .rangeError false) ∨
    execVerify s = .next (s.completed s.mem s.resLen s.crcValue s.prs .frameTooShort false) ∨
    (s.srcAt + s.srcCount ≤ s.cfg.bufSize ∧ 4 ≤ s.srcCount ∧ ∃ code,
      (code = .ok ∨ code = .checksumMismatch) ∧
      execVerify s = .next (s.completed s.mem s.resLen
        (crcFn s.cfg (slice s.source 0 (s.srcCount - 4))) s.prs code false)) := by
  unfold execVerify
  simp only [State.length_source]
  split
  · split
    · exact .inr (.inl rfl)
    · refine .inr (.inr ⟨(s.sourceInRange_iff).mp ‹_›, by omega, ?_⟩)
      split
      · exact ⟨_, .inl rfl, rfl⟩
      · exact ⟨_, .inr rfl, rfl⟩
  · exact .inl rfl

/-- The frame that a BUILD in state `s` assembles, before the clamp (42_frame.md R190). -/
def State.buildFrame (s : State) : List Byte :=
  rawFrame s.cfg.crcOrder s.latch.cfgDst s.latch.cfgSrc s.source (crcFn s.cfg s.source)

@[simp] theorem State.length_buildFrame (s : State) : s.buildFrame.length = 18 + s.srcCount := by
  simp [State.buildFrame]

/-- BUILD completes in one of three ways (42_frame.md R190). -/
theorem execBuild_cases (s : State) :
    execBuild s = .next (s.completed s.mem 0 s.crcValue s.prs .rangeError false) ∨
    (s.srcAt + s.srcCount ≤ s.cfg.bufSize ∧
      s.dstAt + clampLength s.cfg (18 + s.srcCount) ≤ s.cfg.bufSize ∧ ∃ code trunc,
      ((18 + s.srcCount ≤ s.cfg.maxFrame ∧ code = .ok ∧ trunc = false) ∨
        (s.cfg.maxFrame < 18 + s.srcCount ∧ code = .bufferTooLarge ∧ trunc = true)) ∧
      execBuild s = .next (s.completed
        (s.mem.write s.dstAt (physicalFrame s.cfg s.buildFrame))
        (BitVec.ofNat 13 (clampLength s.cfg (18 + s.srcCount))) (crcFn s.cfg s.source) s.prs code
        trunc)) := by
  unfold execBuild
  simp only [length_rawFrame, State.length_source]
  split
  · split
    · refine .inr ⟨(s.sourceInRange_iff).mp ‹_›, (inRange_iff ..).mp ‹_›, ?_⟩
      split
      · exact ⟨_, _, .inr ⟨by omega, rfl, rfl⟩, rfl⟩
      · exact ⟨_, _, .inl ⟨by omega, rfl, rfl⟩, rfl⟩
    · exact .inl rfl
  · exact .inl rfl

/-- PARSE completes in one of four ways (42_frame.md R200, R203). -/
theorem execParse_cases (s : State) :
    (∃ code, (code = .rangeError ∨ code = .shortFrame ∨ code = .frameTooShort) ∧
      execParse s = .next (s.completed s.mem s.resLen s.crcValue .zero code false)) ∨
    (∃ d, s.srcAt + s.srcCount ≤ s.cfg.bufSize ∧ d = unbe16 (slice s.source 12 14) ∧ 4 ≤ d ∧
      14 + d ≤ s.srcCount ∧
      execParse s = .next (s.completed s.mem s.resLen s.crcValue
        (parsedRegs s.cfg.crcOrder s.srcAt s.source d) .ok false)) := by
  unfold execParse
  simp only [State.length_source]
  split
  · split
    · exact .inl ⟨_, .inr (.inl rfl), rfl⟩
    · split
      · exact .inl ⟨_, .inr (.inl rfl), rfl⟩
      · split
        · exact .inl ⟨_, .inr (.inr rfl), rfl⟩
        · exact .inr ⟨_, (s.sourceInRange_iff).mp ‹_›, rfl, by omega, by omega, rfl⟩
  · exact .inl ⟨_, .inl rfl, rfl⟩

/-- Every command answers a next state, which keeps everything but the buffer, the result registers
and the completion flags. -/
theorem exec_completed (i : Instr) (s : State) : ∃ m r c p code trunc,
    exec i s = .next (s.completed m r c p code trunc) := by
  cases i
  · rcases execPad_cases s with h | h | ⟨-, -, -, h⟩ <;> exact ⟨_, _, _, _, _, _, h⟩
  · rcases execUnpad_cases s with h | h | ⟨_, -, -, h⟩ <;> exact ⟨_, _, _, _, _, _, h⟩
  · rcases execCrc_cases s with h | ⟨-, h⟩ <;> exact ⟨_, _, _, _, _, _, h⟩
  · rcases execVerify_cases s with h | h | ⟨-, -, _, -, h⟩ <;> exact ⟨_, _, _, _, _, _, h⟩
  · rcases execBuild_cases s with h | ⟨-, -, _, _, -, h⟩ <;> exact ⟨_, _, _, _, _, _, h⟩
  · rcases execParse_cases s with ⟨_, -, h⟩ | ⟨_, -, -, -, -, h⟩ <;> exact ⟨_, _, _, _, _, _, h⟩

end Sys2Proof.Machine
end

