-- ==== Sys2Proof/Laws/Frame.lean ====
section
/-! SUPPORT. The bytes a command reads and a BUILD assembles, one by one: slices of the source region,
the values the block reads from them, and the unclamped frame. -/

namespace Sys2Proof.Machine

variable (s : State)

theorem State.slice_source {a b : Nat} (h : b ≤ s.srcCount) (hab : a ≤ b) :
    slice s.source a b = s.memRead (s.srcAt + a) (b - a) := by
  apply List.ext_getElem
  · simp [slice]
    omega
  · intro i h1 h2
    simp [slice]
    congr 1
    omega

theorem State.getLast?_source (h : 0 < s.srcCount) :
    s.source.getLast? = some (s.readByte (s.srcAt + (s.srcCount - 1))) := by
  rw [List.getLast?_eq_getElem?, List.getElem?_eq_getElem (by simp; omega)]
  simp

/-- Two states with one latch that agree on the source region read the same source. -/
theorem State.source_congr {s u : State} (hl : u.latch = s.latch)
    (h : ∀ i, i < s.srcCount → u.readByte (s.srcAt + i) = s.readByte (s.srcAt + i)) :
    u.source = s.source := by
  unfold State.source State.srcAt State.srcCount
  rw [hl]
  exact State.memRead_congr h

/-! ### The values read from a region -/

theorem State.unbe16_memRead (a : Nat) :
    unbe16 (s.memRead a 2) = (s.readByte a).toNat * 256 + (s.readByte (a + 1)).toNat := by
  rw [show s.memRead a 2 = [s.readByte a, s.readByte (a + 1)] from rfl]
  simp [unbe16, beValue, leValue]
  omega

theorem State.unle32_memRead_four (a : Nat) :
    (unle32 (s.memRead a 4)).toNat =
      (s.readByte a).toNat + 2 ^ 8 * (s.readByte (a + 1)).toNat +
        2 ^ 16 * (s.readByte (a + 2)).toNat + 2 ^ 24 * (s.readByte (a + 3)).toNat := by
  rw [show s.memRead a 4 =
    [s.readByte a, s.readByte (a + 1), s.readByte (a + 2), s.readByte (a + 3)] from rfl]
  simp only [unle32, leValue, BitVec.toNat_ofNat]
  have := (s.readByte a).isLt
  have := (s.readByte (a + 1)).isLt
  have := (s.readByte (a + 2)).isLt
  have := (s.readByte (a + 3)).isLt
  omega

theorem State.unle32_memRead_two (a : Nat) :
    ((unle32 (s.memRead a 2)).setWidth 16).toNat =
      (s.readByte a).toNat + 2 ^ 8 * (s.readByte (a + 1)).toNat := by
  rw [show s.memRead a 2 = [s.readByte a, s.readByte (a + 1)] from rfl]
  simp only [unle32, leValue, BitVec.toNat_ofNat, BitVec.toNat_setWidth]
  have := (s.readByte a).isLt
  have := (s.readByte (a + 1)).isLt
  omega

theorem State.cksValue_memRead (a : Nat) :
    (cksValue s.cfg.crcOrder (s.memRead a 4)).toNat = s.storedChecksum a := by
  rw [show s.memRead a 4 =
    [s.readByte a, s.readByte (a + 1), s.readByte (a + 2), s.readByte (a + 3)] from rfl,
    State.storedChecksum]
  have := (s.readByte a).isLt
  have := (s.readByte (a + 1)).isLt
  have := (s.readByte (a + 2)).isLt
  have := (s.readByte (a + 3)).isLt
  cases s.cfg.crcOrder
  · simp only [cksValue, unle32, leValue, BitVec.toNat_ofNat]
    omega
  · simp only [cksValue, unbe32, beValue, List.reverse_cons, List.reverse_nil, List.nil_append,
      List.cons_append, leValue, BitVec.toNat_ofNat]
    omega

/-! ### The frame of a BUILD -/

/-- Byte `i` of the unclamped frame, and 0 beyond it. -/
theorem State.getD_rawFrame (c : Word) (i : Nat) :
    (rawFrame s.cfg.crcOrder s.latch.cfgDst s.latch.cfgSrc s.source c).getD i 0 =
      s.frameByteAt c i := by
  unfold rawFrame State.frameByteAt
  rw [List.getD_eq_getElem?_getD, List.append_assoc, List.append_assoc, List.append_assoc,
    ← List.append_assoc s.latch.cfgDst.bytes, List.getElem?_append]
  simp only [List.length_append, Addr.length_bytes]
  by_cases h1 : i < 12
  · rw [if_pos h1, if_pos h1, List.getD_eq_getElem?_getD]
  rw [if_neg h1, if_neg h1, List.getElem?_append]
  simp only [length_be16, State.length_source]
  by_cases h2 : i = 12
  · subst h2
    have : s.srcCount < 8192 := s.latch.srcLen.isLt
    simp [be16]
    apply BitVec.eq_of_toNat_eq
    simp [BitVec.extractLsb'_toNat, Nat.shiftRight_eq_div_pow]
    omega
  by_cases h3 : i = 13
  · subst h3
    simp [be16]
    apply BitVec.eq_of_toNat_eq
    simp [BitVec.extractLsb'_toNat]
  rw [if_neg (by omega), if_neg h2, if_neg h3, List.getElem?_append]
  simp only [State.length_source]
  by_cases h4 : i < 14 + s.srcCount
  · rw [if_pos (by omega), if_pos h4, List.getElem?_eq_getElem (by simp; omega)]
    simp
    congr 2
  rw [if_neg (by omega), if_neg h4]
  by_cases h5 : i < 18 + s.srcCount
  · rw [if_pos h5]
    obtain ⟨j, hj, rfl⟩ : ∃ j, j < 4 ∧ i = 14 + s.srcCount + j :=
      ⟨i - (14 + s.srcCount), by omega, by omega⟩
    rw [show 14 + s.srcCount + j - (6 + 6) - 2 - s.srcCount = j by omega,
      show 14 + s.srcCount + j - (14 + s.srcCount) = j by omega,
      show 17 + s.srcCount - (14 + s.srcCount + j) = 3 - j by omega]
    have : j = 0 ∨ j = 1 ∨ j = 2 ∨ j = 3 := by omega
    cases s.cfg.crcOrder <;> rcases this with rfl | rfl | rfl | rfl <;>
      simp [cksBytes, le32, be32] <;> (apply BitVec.eq_of_toNat_eq; simp [byteOf_toNat])
  · rw [if_neg h5, List.getElem?_eq_none (by simp; omega)]
    rfl

/-- The checksum read back from where a BUILD in state `s` placed `c` is `c`. -/
theorem State.storedChecksum_of_frame {s t : State} {c : Word} {a : Nat} (h : t.cfg = s.cfg)
    (hb : ∀ j, j < 4 → t.readByte (a + j) = s.frameByteAt c (14 + s.srcCount + j)) :
    t.storedChecksum a = c.toNat := by
  have fr : ∀ j, j < 4 → s.frameByteAt c (14 + s.srcCount + j) =
      match s.cfg.crcOrder with
      | .le => BitVec.ofNat 8 (c.toNat / 256 ^ j)
      | .be => BitVec.ofNat 8 (c.toNat / 256 ^ (3 - j)) := by
    intro j hj
    unfold State.frameByteAt
    rw [if_neg (by omega), if_neg (by omega), if_neg (by omega), if_neg (by omega),
      if_pos (by omega)]
    have e1 : 14 + s.srcCount + j - (14 + s.srcCount) = j := by omega
    have e2 : 17 + s.srcCount - (14 + s.srcCount + j) = 3 - j := by omega
    cases s.cfg.crcOrder <;> simp only [e1, e2]
  have h0 := hb 0 (by omega)
  have h1 := hb 1 (by omega)
  have h2 := hb 2 (by omega)
  have h3 := hb 3 (by omega)
  rw [fr _ (by omega)] at h0 h1 h2 h3
  have := c.isLt
  unfold State.storedChecksum
  rw [h]
  simp only [Nat.add_zero] at h0
  cases ho : s.cfg.crcOrder <;> simp only [ho] at h0 h1 h2 h3 <;> rw [h0, h1, h2, h3] <;>
    simp only [BitVec.toNat_ofNat] <;> omega

end Sys2Proof.Machine
end

