-- ==== Sys2Proof/Laws/Step.lean ====
section
/-! SUPPORT. What one step can do, said once: the engine completes a command, the host's transaction
runs, `rst_n` is driven, or nothing happens. -/

namespace Sys2Proof.Machine

/-- The engine's completion step answers a completed state. -/
theorem engineStep_completed (s : State) : ∃ m r c p code trunc,
    engineStep s = .next (s.completed m r c p code trunc) := by
  unfold engineStep
  split
  · exact exec_completed _ s
  · exact ⟨s.mem, s.resLen, s.crcValue, s.prs, .illegalCmd, false, rfl⟩

/-- What the completion step leaves, from its answer. -/
theorem completed_of_engineStep {s t : State} (h : engineStep s = .next t) :
    ∃ m r c p code trunc, t = s.completed m r c p code trunc := by
  obtain ⟨m, r, c, p, code, trunc, h'⟩ := engineStep_completed s
  rw [h'] at h
  exact ⟨m, r, c, p, code, trunc, (Host.Outcome.next.inj h).symm⟩

/-- The engine's turn: the completion step when a command is in flight and the block is not held in
reset, else nothing. -/
theorem engineTurn_cases (s : State) :
    (s.phase = .busy ∧ s.rstN = true ∧ engineTurn s = engineStep s) ∨
    ((s.phase = .idle ∨ s.rstN = false) ∧ engineTurn s = .next s) := by
  unfold engineTurn
  cases hp : s.phase <;> cases hr : s.rstN <;> simp [State.busy, hp]

/-- The engine's turn with no command in flight changes nothing. -/
theorem engineTurn_idle {s : State} (h : s.phase = .idle) : engineTurn s = .next s := by
  rcases engineTurn_cases s with ⟨hp, -⟩ | ⟨-, ht⟩
  · rw [h] at hp
    cases hp
  · exact ht

/-- The engine's turn always answers a next state. -/
theorem engineTurn_next (s : State) : ∃ t, engineTurn s = .next t := by
  rcases engineTurn_cases s with ⟨-, -, h⟩ | ⟨-, h⟩
  · obtain ⟨_, _, _, _, _, _, h'⟩ := engineStep_completed s
    exact ⟨_, h.trans h'⟩
  · exact ⟨_, h⟩

/-- The state in which the agent at the head of the schedule acts. -/
def State.popTurn (s : State) : State := { s with sched := s.sched.tail }

@[simp] theorem State.popTurn_cfg (s : State) : s.popTurn.cfg = s.cfg := rfl
@[simp] theorem State.popTurn_irqEn (s : State) : s.popTurn.irqEn = s.irqEn := rfl
@[simp] theorem State.popTurn_lock (s : State) : s.popTurn.lock = s.lock := rfl
@[simp] theorem State.popTurn_done (s : State) : s.popTurn.done = s.done := rfl
@[simp] theorem State.popTurn_trunc (s : State) : s.popTurn.trunc = s.trunc := rfl
@[simp] theorem State.popTurn_overrun (s : State) : s.popTurn.overrun = s.overrun := rfl
@[simp] theorem State.popTurn_code (s : State) : s.popTurn.code = s.code := rfl
@[simp] theorem State.popTurn_phase (s : State) : s.popTurn.phase = s.phase := rfl
@[simp] theorem State.popTurn_cmd (s : State) : s.popTurn.cmd = s.cmd := rfl
@[simp] theorem State.popTurn_srcPtr (s : State) : s.popTurn.srcPtr = s.srcPtr := rfl
@[simp] theorem State.popTurn_srcLen (s : State) : s.popTurn.srcLen = s.srcLen := rfl
@[simp] theorem State.popTurn_dstPtr (s : State) : s.popTurn.dstPtr = s.dstPtr := rfl
@[simp] theorem State.popTurn_dstCap (s : State) : s.popTurn.dstCap = s.dstCap := rfl
@[simp] theorem State.popTurn_resLen (s : State) : s.popTurn.resLen = s.resLen := rfl
@[simp] theorem State.popTurn_crcValue (s : State) : s.popTurn.crcValue = s.crcValue := rfl
@[simp] theorem State.popTurn_cfgDstLo (s : State) : s.popTurn.cfgDstLo = s.cfgDstLo := rfl
@[simp] theorem State.popTurn_cfgDstHi (s : State) : s.popTurn.cfgDstHi = s.cfgDstHi := rfl
@[simp] theorem State.popTurn_cfgSrcLo (s : State) : s.popTurn.cfgSrcLo = s.cfgSrcLo := rfl
@[simp] theorem State.popTurn_cfgSrcHi (s : State) : s.popTurn.cfgSrcHi = s.cfgSrcHi := rfl
@[simp] theorem State.popTurn_prs (s : State) : s.popTurn.prs = s.prs := rfl
@[simp] theorem State.popTurn_latch (s : State) : s.popTurn.latch = s.latch := rfl
@[simp] theorem State.popTurn_mem (s : State) : s.popTurn.mem = s.mem := rfl
@[simp] theorem State.popTurn_rdata (s : State) : s.popTurn.rdata = s.rdata := rfl
@[simp] theorem State.popTurn_rstN (s : State) : s.popTurn.rstN = s.rstN := rfl
@[simp] theorem State.popTurn_epoch (s : State) : s.popTurn.epoch = s.epoch := rfl
@[simp] theorem State.popTurn_sched (s : State) : s.popTurn.sched = s.sched.tail := rfl

/-- A step that answers a next state is a completion, a host transaction, a change of `rst_n`, or
nothing but a turn passed. -/
theorem step_cases {s t : State} (h : step s = .next t) : s.cfg.wellFormed = true ∧
    ((s.phase = .busy ∧ s.rstN = true ∧ (s.sched = [] ∨ ∃ l, s.sched = .engine :: l) ∧
        engineStep s.popTurn = .next t) ∨
      ((s.phase = .idle ∨ s.rstN = false) ∧ (s.sched = [] ∨ ∃ l, s.sched = .engine :: l) ∧
        t = s.popTurn) ∨
      (∃ a l, s.sched = .host a :: l ∧ t = s.popTurn.busStep a) ∨
      (∃ b l, s.sched = .rstN b :: l ∧ t = s.popTurn.driveRstN b)) := by
  unfold step at h
  split at h
  · refine ⟨‹_›, ?_⟩
    have hs : ∀ l, s.sched = l → { s with sched := l.tail } = s.popTurn := by
      intro l hl
      simp [State.popTurn, hl]
    split at h
    · have hl : s.sched = [] := ‹_›
      have he : s.popTurn = s := by
        cases s
        cases hl
        rfl
      rcases engineTurn_cases s with ⟨hp, hr, ht⟩ | ⟨hp, ht⟩
      · exact .inl ⟨hp, hr, .inl hl, by rw [he, ← ht, h]⟩
      · refine .inr (.inl ⟨hp, .inl hl, ?_⟩)
        rw [ht] at h
        rw [he]
        exact (Host.Outcome.next.inj h).symm
    · next a l hl =>
      refine .inr (.inr (.inl ⟨a, l, hl, ?_⟩))
      rw [← hs _ hl]
      exact (Host.Outcome.next.inj h).symm
    · next l hl =>
      have h' : engineTurn s.popTurn = .next t := by rw [← hs _ hl]; exact h
      rcases engineTurn_cases s.popTurn with ⟨hp, hr, ht⟩ | ⟨hp, ht⟩
      · exact .inl ⟨hp, hr, .inr ⟨l, hl⟩, by rw [← ht, h']⟩
      · refine .inr (.inl ⟨hp, .inr ⟨l, hl⟩, ?_⟩)
        rw [ht] at h'
        exact (Host.Outcome.next.inj h').symm
    · next b l hl =>
      refine .inr (.inr (.inr ⟨b, l, hl, ?_⟩))
      rw [← hs _ hl]
      exact (Host.Outcome.next.inj h).symm
  · cases h

end Sys2Proof.Machine
end

