-- ==== Sys2Proof/Laws/Invariant.lean ====
section
/-! SUPPORT. The shared operations keep the invariant `State.Inv`: a completion, a register write, one
bus transaction. -/

namespace Sys2Proof.Machine

/-- The last field of the invariant holds of a state that is not held in reset. -/
theorem heldInReset_of_released {s : State} (h : s.rstN = true) : s.rstN = false →
    s = { State.reset with cfg := s.cfg, rstN := false, epoch := s.epoch, sched := s.sched } := by
  intro h'
  rw [h] at h'
  cases h'

/-- A completion keeps the invariant when the buffer and the results it leaves meet their clauses. -/
theorem State.Inv.completed {s : State} (hi : s.Inv) (hr : s.rstN = true) {m : Memory}
    {r : BitVec 13} {c : Word} {p : ParseRegs} {code : ResultCode} {trunc : Bool}
    (h1 : m.wf) (h2 : ∀ x ∈ m, x.1 < s.cfg.bufSize)
    (h3 : trunc = true → code = .bufferTooLarge ∧ r.toNat = s.cfg.maxFrame)
    (h4 : r.toNat ≤ s.cfg.bufSize)
    (h5 : p = .zero ∨ (p.len.toNat = p.payLen.toNat + 4 ∧ 14 ≤ p.payOff.toNat ∧
      p.payOff.toNat + p.len.toNat ≤ s.cfg.bufSize)) :
    (s.completed m r c p code trunc).Inv :=
  ⟨hi.cfgOk, h1, h2, by simp, by simp, h3, h4, h5, heldInReset_of_released hr⟩

/-- The message of a valid pad is no longer than its region. -/
theorem unpadLength_le {blk n : Nat} {b : List Byte} (h : unpadLength blk b = some n) :
    n ≤ b.length := by
  unfold unpadLength at h
  split at h
  · cases h
  · split at h
    · cases h
    · split at h
      · cases h
        omega
      · cases h

theorem State.Inv.setRdata {s : State} (hi : s.Inv) (hr : s.rstN = true) (v : Word) :
    (s.setRdata v).Inv :=
  ⟨hi.cfgOk, hi.memRising, hi.memInBuffer, hi.busyNotDone, hi.busyCmd, hi.truncCode, hi.resLenFits,
    hi.prsCoherent, heldInReset_of_released hr⟩

theorem State.Inv.setOverrun {s : State} (hi : s.Inv) (hr : s.rstN = true) : s.setOverrun.Inv :=
  ⟨hi.cfgOk, hi.memRising, hi.memInBuffer, hi.busyNotDone, hi.busyCmd, hi.truncCode, hi.resLenFits,
    hi.prsCoherent, heldInReset_of_released hr⟩

theorem State.Inv.writeReg {s : State} (hi : s.Inv) (hr : s.rstN = true) (r : Reg) (w : Word) :
    (s.writeReg r w).Inv := by
  obtain ⟨h1, h2, h3, h4, -, h6, h7, h8, -, -⟩ := s.writeReg_frame r w
  refine ⟨?_, ?_, ?_, ?_, ?_, ?_, ?_, ?_, heldInReset_of_released (h8.trans hr)⟩
  · rw [h1]
    exact hi.cfgOk
  · rw [h7]
    exact hi.memRising
  · rw [h7, h1]
    exact hi.memInBuffer
  · have := hi.busyNotDone
    rw [s.writeReg_phase, s.writeReg_done]
    cases hp : s.phase <;> split <;> simp_all [State.busy]
  · have := hi.busyCmd
    cases r <;> simp only [State.writeReg, State.writeCmd, State.writeCtrl, State.writeStatus] <;>
      (try split) <;> simp_all [State.issue, State.takeLatch, State.setOverrun]
  · rw [h2, h3, h4, h1]
    exact hi.truncCode
  · rw [h4, h1]
    exact hi.resLenFits
  · rw [h6, h1]
    exact hi.prsCoherent

/-- Every bus transaction keeps the invariant. -/
theorem State.Inv.busStep {s : State} (hi : s.Inv) (a : Access) : (s.busStep a).Inv := by
  rcases s.busStep_cases a with ⟨hr, h | h⟩ | ⟨hr, ⟨v, -, h⟩ | ⟨off, w, b, r, -, -, h⟩ |
    ⟨off, w, b, -, -, -, h⟩ | ⟨off, w, b, -, -, -, h⟩ | ⟨off, -, -, -, h⟩ |
    ⟨off, w, b, -, -, -, h⟩⟩ <;> rw [h]
  · exact hi
  · have hz : s.setRdata 0 = s := by
      rw [hi.heldInReset hr]
      rfl
    rw [hz]
    exact hi
  · exact hi.setRdata hr v
  · exact hi.writeReg hr r w
  · exact hi
  · have h1 := s.writeWindow_wf (4 * ((off.toNat - 0x1000) / 4)) w b hi.memRising
    have h2 := s.writeWindow_inBuffer (4 * ((off.toNat - 0x1000) / 4)) w b hi.memInBuffer
    rw [s.writeWindow_eq]
    exact ⟨hi.cfgOk, h1, h2, hi.busyNotDone, hi.busyCmd, hi.truncCode, hi.resLenFits,
      hi.prsCoherent, heldInReset_of_released hr⟩
  · exact (hi.setOverrun hr).setRdata hr 0
  · exact hi.setOverrun hr

end Sys2Proof.Machine
end

