-- ==== Sys2Proof/Laws/PerInstr.lean ====
section
/-! SUPPORT. The family `CommandWord`: what the encoding table of 30_encoding.md R100, R102 says of each
command as syntax, one lemma per command. -/

namespace Sys2Proof.Laws.CommandWord

/-- The command is well formed, its opcode is one of 0x1..0x6, and its word holds the opcode in bits
[3:0] and 0 in bits [31:4]. -/
def Statement (i : Instr) : Prop :=
  i.wellFormed = true ∧ 1 ≤ i.opcode.toNat ∧ i.opcode.toNat ≤ 6 ∧
    opField (encode i) = i.opcode ∧ rsvField (encode i) = 0

theorem pad : Statement .pad := by unfold Statement; decide
theorem unpad : Statement .unpad := by unfold Statement; decide
theorem crc : Statement .crc := by unfold Statement; decide
theorem verify : Statement .verify := by unfold Statement; decide
theorem build : Statement .build := by unfold Statement; decide
theorem parse : Statement .parse := by unfold Statement; decide

end Sys2Proof.Laws.CommandWord
end

