-- ==== Sys2Proof/Laws/Script.lean ====
section
/-! SUPPORT. The script's window accesses (30_encoding.md R112): the lanes of a window word are its four
buffer bytes, and reads of the window run while idle return its words. -/

namespace Sys2Proof.Machine

/-- Lane `i` of a word made of four bytes is byte `i`. -/
theorem toNat_lane (f : Nat → Byte) {i : Nat} (hi : i < 4) :
    (f 3 ++ f 2 ++ f 1 ++ f 0 : BitVec 32).toNat / 2 ^ (8 * i) % 256 = (f i).toNat := by
  have := (f 0).isLt
  have := (f 1).isLt
  have := (f 2).isLt
  have := (f 3).isLt
  rw [BitVec.toNat_append, BitVec.toNat_append, BitVec.toNat_append, Nat.shiftLeft_eq,
    Nat.shiftLeft_eq, Nat.shiftLeft_eq, Nat.mul_comm (f 3).toNat,
    ← Nat.two_pow_add_eq_or_of_lt (by omega), Nat.mul_comm _ (2 ^ 8),
    ← Nat.two_pow_add_eq_or_of_lt (by omega), Nat.mul_comm _ (2 ^ 8),
    ← Nat.two_pow_add_eq_or_of_lt (by omega)]
  have : i = 0 ∨ i = 1 ∨ i = 2 ∨ i = 3 := by omega
  rcases this with rfl | rfl | rfl | rfl <;> omega

/-- The lanes of a window word inside the buffer are its four bytes (20_memory.md R73). -/
theorem State.le32_windowWord (s : State) {j : Nat} (h : j + 3 < s.cfg.bufSize) :
    le32 (s.windowWord j) = s.memRead j 4 := by
  have b : ∀ i, i < 4 → byteOf (s.windowWord j) i = s.readByte (j + i) := by
    intro i hi
    apply BitVec.eq_of_toNat_eq
    rw [byteOf_toNat, State.windowWord, toNat_lane (fun t => s.windowByte j t) hi]
    simp only [State.windowByte]
    rw [if_pos (by omega)]
  rw [show s.memRead j 4 = [s.readByte (j + 0), s.readByte (j + 1), s.readByte (j + 2),
    s.readByte (j + 3)] from rfl, le32, b 0 (by omega), b 1 (by omega), b 2 (by omega), b 3 (by omega)]

/-- Window reads run while idle return the window's words and change nothing but `rdata`. -/
theorem Script.readWords_window (L : List Nat) : ∀ s : State, s.rstN = true → s.phase = .idle →
    (∀ j ∈ L, 4 ∣ j ∧ j < 0x1000) →
    (Script.readWords s (L.map Script.rdw)).2 = L.map s.windowWord ∧
      ∃ v, (Script.readWords s (L.map Script.rdw)).1 = { s with rdata := v } := by
  induction L with
  | nil => exact fun s _ _ _ => ⟨rfl, s.rdata, rfl⟩
  | cons j L ih =>
    intro s hr hp hL
    obtain ⟨hj, hj'⟩ := hL j (by simp)
    have ho : (BitVec.ofNat 13 (0x1000 + j)).toNat = 0x1000 + j := by
      rw [BitVec.toNat_ofNat]
      omega
    have hb : s.busStep (Script.rdw j) = s.setRdata (s.windowWord j) := by
      rw [Script.rdw, s.busStep_read_window hr (by omega), if_neg (by simp [State.busy, hp]), ho]
      congr 2
      omega
    obtain ⟨i1, v, i2⟩ := ih (s.setRdata (s.windowWord j)) hr hp (fun x hx => hL x (by simp [hx]))
    simp only [List.map_cons, Script.readWords, hb]
    refine ⟨?_, v, i2⟩
    rw [i1]
    rfl

end Sys2Proof.Machine
end

