-- ==== Sys2Proof/Tests/Slice0.lean ====
section
/-! SUPPORT. Tests by evaluation, each on one step of a small state, and for every obligation with
hypotheses a witness that meets them. Expected results are those of spec/95_test_vectors.md (its V
number stands in the docstring) or of the rule named there. -/

namespace Sys2Proof.Tests

open Sys2Proof.Machine

/-! ### Helpers -/

/-- A small configuration: `B` 4, frames of 18 to 20 bytes, a buffer of 64. -/
def tiny : Config :=
  { blockSize := 4, minFrame := 18, maxFrame := 20, bufSize := 64, crcOrder := .le,
    crcFn := .reference }

/-- The state after reset with a configuration and some bytes written from offset `a`. -/
def loaded (c : Config) (a : Nat) (bs : List Byte) : State :=
  { State.reset with cfg := c, mem := Memory.cells a bs }

/-- `s` with the operand registers set and the command word `w` issued. -/
def issued (w : Word) (p n d c : Nat) (s : State) : State :=
  ({ s with srcPtr := BitVec.ofNat 12 p, srcLen := BitVec.ofNat 13 n,
            dstPtr := BitVec.ofNat 12 d, dstCap := BitVec.ofNat 13 c }).issue w

/-- The state that an answer holds. -/
def after (r : Result) : State :=
  match r with
  | .next t => t
  | .fault _ => State.reset
  | .refused _ => State.reset

/-- The bytes of a region. -/
def region (s : State) (a n : Nat) : List Byte := s.memRead a n

/-- The 19-byte message of 95_test_vectors.md section 0. -/
def m19 : List Byte :=
  [0x54, 0x65, 0x73, 0x74, 0x20, 0x6E, 0x75, 0x6D, 0x62, 0x65] ++
  [0x72, 0x20, 0x6F, 0x6E, 0x65, 0x20, 0x3A, 0x44, 0x00]

/-- `P19` of 95_test_vectors.md section 0. -/
def p19 : List Byte := m19 ++ List.replicate 13 0x0D

/-- `HDR` of 95_test_vectors.md section 0. -/
def hdr : List Byte := [0x02, 0, 0, 0, 0, 0x01, 0x02, 0, 0, 0, 0, 0x02]

/-! ### WellFormed: each check of 00_scope.md R5 refuses an ill-formed configuration -/

theorem test_wellFormed_defaults : Config.defaults.wellFormed = true := by decide
theorem test_blockSize_zero_refused :
    Config.wellFormed { Config.defaults with blockSize := 0 } = false := by decide
theorem test_blockSize_256_refused :
    Config.wellFormed { Config.defaults with blockSize := 256 } = false := by decide
theorem test_minFrame_17_refused :
    Config.wellFormed { Config.defaults with minFrame := 17 } = false := by decide
theorem test_minFrame_above_maxFrame_refused :
    Config.wellFormed { Config.defaults with minFrame := 1489 } = false := by decide
theorem test_maxFrame_above_buffer_refused :
    Config.wellFormed { Config.defaults with maxFrame := 4097 } = false := by decide
theorem test_bufSize_32_refused :
    Config.wellFormed { tiny with bufSize := 32 } = false := by decide
theorem test_bufSize_8192_refused :
    Config.wellFormed { Config.defaults with bufSize := 8192 } = false := by decide
theorem test_bufSize_not_a_power_refused :
    Config.wellFormed { Config.defaults with bufSize := 4095 } = false := by decide

/-! ### Decoding (30_encoding.md R100-R103, the words written out bit by bit) -/

theorem test_decode_pad : decode 0b00000000000000000000000000000001#32 = .ok .pad := by decide
theorem test_decode_unpad : decode 0b00000000000000000000000000000010#32 = .ok .unpad := by decide
theorem test_decode_crc : decode 0b00000000000000000000000000000011#32 = .ok .crc := by decide
theorem test_decode_verify : decode 0b00000000000000000000000000000100#32 = .ok .verify := by decide
theorem test_decode_build : decode 0b00000000000000000000000000000101#32 = .ok .build := by decide
theorem test_decode_parse : decode 0b00000000000000000000000000000110#32 = .ok .parse := by decide
/-- V21d: bit 4 set is not PAD. -/
theorem test_decode_reserved_bits :
    decode 0b00000000000000000000000000010001#32 = .error (.reservedBits 1) := by decide
/-- V21b. -/
theorem test_decode_reserved_opcode :
    decode 0b00000000000000000000000000000111#32 = .error (.reservedOpcode 7) := by decide
theorem test_decodeTableWord_parse : decodeTableWord 32 0x6 = some .parse := by decide
theorem test_decodeTableWord_illegal : decodeTableWord 32 0 = none := by decide

/-! ### One step of each command -/

/-- V1 and V7: the 19-byte message, capacity met exactly. -/
theorem test_pad_19 :
    let t := after (exec .pad (issued 1 0 19 0x100 32 (loaded Config.defaults 0 m19)))
    t.code = .ok ∧ t.resLen = 32 ∧ region t 0x100 32 = p19 := by decide +kernel

/-- V7b: one byte too little capacity writes nothing. -/
theorem test_pad_capacity :
    let t := after (exec .pad (issued 1 0 19 0x100 31 (loaded Config.defaults 0 m19)))
    t.code = .bufferTooLarge ∧ t.resLen = 0 ∧ t.mem = Memory.cells 0 m19 := by decide +kernel

/-- V2. -/
theorem test_unpad_19 :
    let t := after (exec .unpad (issued 2 0 32 0 0 (loaded Config.defaults 0 p19)))
    t.code = .ok ∧ t.resLen = 19 := by decide +kernel

/-- V3b: `v = 5 > n = 1`. -/
theorem test_unpad_too_long :
    let t := after (exec .unpad (issued 2 0 1 0 0 (loaded Config.defaults 0 [0x05])))
    t.code = .invalidPadding ∧ t.resLen = 0 := by decide +kernel

/-- V10d. -/
theorem test_crc_p19 :
    let t := after (exec .crc (issued 3 0 32 0 0 (loaded Config.defaults 0 p19)))
    t.code = .ok ∧ t.crcValue = 0x10BB073D := by decide +kernel

/-- V10h: the register keeps its value. -/
theorem test_crc_range :
    let t := after (exec .crc (issued 3 0x800 0x1000 0 0
      { loaded Config.defaults 0 [] with crcValue := 0x1234 }))
    t.code = .rangeError ∧ t.crcValue = 0x1234 := by decide +kernel

/-- V12: one flipped checksum bit. -/
theorem test_verify_mismatch :
    let t := after (exec .verify (issued 4 0 36 0 0
      (loaded Config.defaults 0 (p19 ++ [0x3C, 0x07, 0xBB, 0x10]))))
    t.code = .checksumMismatch ∧ t.crcValue = 0x10BB073D := by decide +kernel

/-- V12c: the same bytes are right under `CRC_ORDER = BE`. -/
theorem test_verify_big_endian :
    let t := after (exec .verify (issued 4 0 36 0 0
      (loaded { Config.defaults with crcOrder := .be } 0 (p19 ++ [0x10, 0xBB, 0x07, 0x3D]))))
    t.code = .ok ∧ t.crcValue = 0x10BB073D := by decide +kernel

/-- V4: addresses, length field, payload, checksum, 50 bytes. -/
theorem test_build_p19 :
    let s := loaded Config.defaults 0 p19
    let t := after (exec .build (issued 5 0 32 0x200 0
      { s with cfgDstLo := 0x2, cfgDstHi := 0x100, cfgSrcLo := 0x2, cfgSrcHi := 0x200 }))
    t.code = .ok ∧ t.resLen = 50 ∧ t.crcValue = 0x10BB073D ∧
      region t 0x200 50 = hdr ++ [0x00, 0x24] ++ p19 ++ [0x3D, 0x07, 0xBB, 0x10] := by
  decide +kernel

/-- 42_frame.md R197 with `MAX_FRAME` 20: a 4-byte payload gives T = 22, the length field keeps 8, the
last two checksum bytes are lost. CRC-32 of FF FF FF FF is FF FF FF FF (V10c). -/
theorem test_build_truncated :
    let t := after (exec .build (issued 5 0 4 8 0 (loaded tiny 0 [0xFF, 0xFF, 0xFF, 0xFF])))
    t.code = .bufferTooLarge ∧ t.trunc = true ∧ t.resLen = 20 ∧
      region t 8 20 = List.replicate 12 0 ++ [0x00, 0x08] ++ List.replicate 6 0xFF := by
  decide +kernel

/-- V18e. -/
theorem test_parse_empty_payload :
    let t := after (exec .parse (issued 6 0 18 0 0
      (loaded Config.defaults 0 (hdr ++ [0x00, 0x04, 0, 0, 0, 0]))))
    t.code = .ok ∧ t.prs = { dstLo := 0x2, dstHi := 0x100, srcLo := 0x2, srcHi := 0x200, len := 4,
                             payOff := 14, payLen := 0, crc := 0 } := by decide +kernel

/-- V20: a declared length below 4. -/
theorem test_parse_declared_two :
    let t := after (exec .parse (issued 6 0 16 0 0
      (loaded Config.defaults 0 (hdr ++ [0x00, 0x02, 0xAA, 0xBB]))))
    t.code = .frameTooShort ∧ t.prs = .zero := by decide +kernel

/-- V21: `STATUS` reads 0x72 after an illegal word. -/
theorem test_illegal_status :
    (after (step (State.reset.withFetchWord 32 0))).readReg .status = 0x72 := by decide +kernel

/-- 30_encoding.md R112: a lane under a strobe, through the bus. -/
theorem test_window_write_read :
    (((loaded tiny 0 [1, 2, 3, 4]).busStep (.write 0x1000 0xAABBCCDD 0b0101)).busStep
      (.read 0x1003)).rdata = 0x04BB02DD := by decide +kernel

/-- 30_encoding.md R112: `RDB 5, 4` over two words returns the four bytes from offset 5. -/
theorem test_rdb_across_words :
    (Script.runRdb (loaded tiny 4 [9, 1, 2, 3, 4, 9, 9, 9]) 5 4).2 = [1, 2, 3, 4] := by decide +kernel

/-! ### Witnesses: for each obligation with hypotheses, states and operands that meet them all -/

/-- A PAD in flight with the turns `l` pending. -/
def flying (l : List Turn) : State := { issued 1 0 0 0 64 State.reset with sched := l }

/-- An idle block with the turns `l` pending, DONE and OVERRUN set. -/
def resting (l : List Turn) : State :=
  { State.reset with done := true, overrun := true, sched := l }

theorem test_witness_DecodeAndEncodeAgree :
    Instr.parse.wellFormed = true ∧ decode 0x6 = .ok .parse := by decide

theorem test_witness_LegalWords_legal :
    let s := issued 6 0 0 0 0 State.reset
    s.latch.cmd.extractLsb' 4 28 = 0 ∧ 1 ≤ (s.latch.cmd.extractLsb' 0 4).toNat ∧
      (s.latch.cmd.extractLsb' 0 4).toNat ≤ 6 := by decide

theorem test_witness_LegalWords_illegal :
    let s := issued 0x11 0 0 0 0 State.reset
    let u := issued 7 0 0 0 0 State.reset
    ¬ s.latch.cmd.extractLsb' 4 28 = 0 ∧ ¬ (u.latch.cmd.extractLsb' 0 4).toNat ≤ 6 := by decide

theorem test_witness_StepRuns_empty :
    let s := flying []
    s.cfg.wellFormed = true ∧ s.phase = .busy ∧ s.rstN = true ∧ decode s.latch.cmd = .ok .pad ∧
      Instr.pad.wellFormed = true ∧ s.sched = [] := by decide

theorem test_witness_StepRuns_turn :
    let s := flying [.engine, .rstN false]
    s.cfg.wellFormed = true ∧ s.phase = .busy ∧ s.rstN = true ∧ decode s.latch.cmd = .ok .pad ∧
      Instr.pad.wellFormed = true ∧ s.sched = .engine :: [.rstN false] := by decide

theorem test_witness_HostTurn :
    let s := flying [.host (.read 0x1000)]
    s.cfg.wellFormed = true ∧ s.sched = [.host (.read 0x1000)] := by decide

/-- The constraints at their boundaries: `B` 255, 18-byte frames, a 64-byte buffer. -/
theorem test_witness_StepRefuses_good :
    let c : Config := { tiny with blockSize := 255, maxFrame := 18 }
    1 ≤ c.blockSize ∧ c.blockSize ≤ 255 ∧ 18 ≤ c.minFrame ∧ c.minFrame ≤ c.maxFrame ∧
      c.maxFrame ≤ c.bufSize ∧ (∃ k, c.bufSize = 2 ^ k) ∧ 64 ≤ c.bufSize ∧ c.bufSize ≤ 4096 :=
  ⟨by decide, by decide, by decide, by decide, by decide, ⟨6, rfl⟩, by decide, by decide⟩

theorem test_witness_StepRefuses_bad :
    ¬ (Config.blockSize { tiny with blockSize := 256 } ≤ 255) := by decide

theorem test_witness_EveryIssuedCommandCompletes :
    let s := flying [.host (.read 0x8), .rstN false]
    s.cfg.wellFormed = true ∧ (s.rstN = false → s.phase = .idle) := by decide

theorem test_witness_EveryIssuedCommandCompletes_no_reset :
    let s := flying [.host (.write 0xC 1 0), .rstN true, .engine]
    s.cfg.wellFormed = true ∧ s.rstN = true ∧ s.phase = .busy ∧ Turn.rstN false ∉ s.sched := by decide

theorem test_witness_EveryIssuedCommandCompletes_held :
    let s := (flying []).enterReset
    s.cfg.wellFormed = true ∧ s.rstN = false ∧ s.phase = .idle := by decide

theorem test_witness_EveryStepKeepsTheInvariant : ∃ s t : State, s.Inv ∧ step s = .next t :=
  ⟨flying [.engine], after (step (flying [.engine])),
    ⟨by decide, List.Pairwise.nil, by simp [flying, issued, State.issue, State.reset], by decide,
      by decide, by decide, by decide, .inl rfl, by decide⟩, rfl⟩

theorem test_witness_StepNeverChanges : ∃ t, step (flying [.engine]) = .next t := ⟨_, rfl⟩

/-- A locked block, its configuration set, and a host write that tries to change it. -/
def locked (l : List Turn) : State := { State.reset with lock := true, cfgDstLo := 7, sched := l }

theorem test_witness_OnlyResetUnlocks_kept :
    ∃ t, step (locked [.host (.write 0x28 9 0xF)]) = .next t ∧
      (locked [.host (.write 0x28 9 0xF)]).lock = true ∧
      ¬ (locked [.host (.write 0x28 9 0xF)]).ResetNext :=
  ⟨_, rfl, rfl, by rintro ⟨l, h⟩; simp [locked] at h⟩

theorem test_witness_OnlyResetUnlocks_reset :
    ∃ t, step (locked [.rstN false]) = .next t ∧ (locked [.rstN false]).lock = true ∧
      (locked [.rstN false]).ResetNext :=
  ⟨_, rfl, rfl, [], rfl⟩

theorem test_witness_ResultRegisters :
    ∃ t, step (flying [.host (.write 0x20 1 0xF)]) = .next t ∧
      ¬ ((flying [.host (.write 0x20 1 0xF)]).phase = .busy ∧
        (flying [.host (.write 0x20 1 0xF)]).EngineNext) ∧
      ¬ (flying [.host (.write 0x20 1 0xF)]).ResetNext :=
  ⟨_, rfl, by rintro ⟨-, h | ⟨l, h⟩⟩ <;> simp [flying] at h, by rintro ⟨l, h⟩; simp [flying] at h⟩

theorem test_witness_Busy_rises :
    ∃ t, step (resting [.host (.write 0xC 1 0)]) = .next t ∧
      (resting [.host (.write 0xC 1 0)]).phase = .idle ∧ t.phase = .busy := ⟨_, rfl, rfl, rfl⟩

theorem test_witness_Busy_falls :
    ∃ t, step (flying []) = .next t ∧ (flying []).phase = .busy ∧ (flying []).rstN = true ∧
      (flying []).EngineNext ∧ t.phase = .idle := ⟨_, rfl, rfl, rfl, .inl rfl, rfl⟩

theorem test_witness_Done_completion :
    ∃ t, step (flying [.engine]) = .next t ∧ (flying [.engine]).rstN = true ∧
      (flying [.engine]).phase = .busy ∧ (flying [.engine]).EngineNext :=
  ⟨_, rfl, rfl, rfl, .inr ⟨[], rfl⟩⟩

theorem test_witness_Done_idle_turn :
    ∃ t, step (resting [.engine]) = .next t ∧ (resting [.engine]).rstN = true ∧
      (resting [.engine]).phase = .idle ∧ (resting [.engine]).EngineNext :=
  ⟨_, rfl, rfl, rfl, .inr ⟨[], rfl⟩⟩

theorem test_witness_Done_issue :
    ∃ t, step (resting [.host (.write 0xF 0 0)]) = .next t ∧
      (resting [.host (.write 0xF 0 0)]).phase = .idle ∧ (Access.write 0xF 0 0).WritesCmd :=
  ⟨_, rfl, rfl, 0xF, 0, 0, rfl, rfl⟩

theorem test_witness_Done_dropped_issue :
    ∃ t, step (flying [.host (.write 0xC 0 0)]) = .next t ∧
      (flying [.host (.write 0xC 0 0)]).phase = .busy ∧ (Access.write 0xC 0 0).WritesCmd :=
  ⟨_, rfl, rfl, 0xC, 0, 0, rfl, rfl⟩

theorem test_witness_Done_host_clears :
    ∃ t, step (resting [.host (.write 0x8 2 0xF)]) = .next t ∧ (Access.write 0x8 2 0xF).SetsBit 8 1 :=
  ⟨_, rfl, 0x8, 2, 0xF, rfl, rfl, rfl⟩

theorem test_witness_Done_host_keeps :
    ∃ t, step (resting [.host (.write 0x8 8 0xF)]) = .next t ∧ ¬ (Access.write 0x8 8 0xF).WritesCmd ∧
      ¬ (Access.write 0x8 8 0xF).SetsBit 8 1 := by
  refine ⟨_, rfl, ?_, ?_⟩
  · rintro ⟨off, w, b, h, ho⟩
    cases h
    revert ho
    decide
  · rintro ⟨off, w, b, h, ho, hw⟩
    cases h
    revert hw
    decide

theorem test_witness_Done_reset_pin :
    (∃ t, step (resting [.rstN true]) = .next t) ∧ (∃ t, step (resting [.rstN false]) = .next t) ∧
      (resting [.rstN false]).ResetNext := ⟨⟨_, rfl⟩, ⟨_, rfl⟩, [], rfl⟩

theorem test_witness_Overrun_breach :
    ∃ t, step (flying [.host (.read 0x1000)]) = .next t ∧
      (flying [.host (.read 0x1000)]).phase = .busy ∧ (Access.read 0x1000).Breaches :=
  ⟨_, rfl, rfl, by unfold Access.Breaches; decide⟩

theorem test_witness_Overrun_clears :
    ∃ t, step (resting [.host (.write 0xB 8 0)]) = .next t ∧ (Access.write 0xB 8 0).SetsBit 8 3 :=
  ⟨_, rfl, 0xB, 8, 0, rfl, rfl, rfl⟩

theorem test_witness_Overrun_keeps :
    ∃ t, step (flying [.host (.read 0xFFF)]) = .next t ∧
      ¬ ((flying [.host (.read 0xFFF)]).phase = .busy ∧ (Access.read 0xFFF).Breaches) ∧
      ¬ (Access.read 0xFFF).SetsBit 8 3 := by
  refine ⟨_, rfl, ?_, ?_⟩
  · rintro ⟨-, h⟩
    exact absurd h (by unfold Access.Breaches; decide)
  · rintro ⟨off, w, b, h, -⟩
    cases h

/-- A completion with IRQ_EN set: the clause of the completion and that of the rise. -/
theorem test_witness_Interrupt_rises :
    let s : State := { flying [] with irqEn := true }
    ∃ t, step s = .next t ∧ s.phase = .busy ∧ s.rstN = true ∧ s.EngineNext ∧ s.irqEn = true ∧
      s.irq = false ∧ t.irq = true := ⟨_, rfl, rfl, rfl, .inl rfl, rfl, rfl, rfl⟩

theorem test_witness_Interrupt_falls :
    let s : State := { resting [.host (.write 0x8 2 0)] with irqEn := true }
    ∃ t, step s = .next t ∧ s.irq = true ∧ t.irq = false := ⟨_, rfl, rfl, rfl⟩

theorem test_witness_LatchIsNeverObserved :
    ∃ t, (resting [.host (.read 0)]).phase = .idle ∧ step (resting [.host (.read 0)]) = .next t :=
  ⟨_, rfl, rfl⟩

theorem test_witness_CompletionDependsOnly :
    let s := flying []
    let u : State := { flying [.engine] with resLen := 5, crcValue := 9, overrun := true }
    u.cfg = s.cfg ∧ u.latch = s.latch ∧ u.mem = s.mem ∧ u.epoch = s.epoch ∧ u ≠ s := by decide

theorem test_witness_OperandWrites : ∃ t, exec .pad (flying []) = .next t := ⟨_, rfl⟩

theorem test_witness_ResetAbandons :
    (flying [.rstN false]).cfg.wellFormed = true ∧ (flying [.rstN false]).sched = [.rstN false] ∧
      (flying [.rstN false]).phase = .busy := by decide

theorem test_witness_HeldInReset : (flying []).enterReset.rstN = false := by decide

theorem test_witness_released_and_wellFormed :
    (resting []).cfg.wellFormed = true ∧ (resting []).rstN = true ∧ (resting []).phase = .idle := by
  decide

/-- The least and the greatest code (60_exceptions.md R230). -/
theorem test_witness_RegisterReads_codes :
    let codes : List (ResultCode × Nat) := [(.ok, 0), (.invalidPadding, 1), (.checksumMismatch, 2),
      (.shortFrame, 3), (.frameTooShort, 4), (.bufferTooLarge, 5), (.rangeError, 6), (.illegalCmd, 7)]
    ((resting []).code, 0) ∈ codes ∧
      ((after (step { issued 0 0 0 0 0 State.reset with sched := [] })).code, 7) ∈ codes := by decide

theorem test_witness_IdleEngineTurn :
    (resting [.engine, .rstN false]).cfg.wellFormed = true ∧
      (resting [.engine, .rstN false]).phase = .idle ∧ (resting [.engine, .rstN false]).EngineNext :=
  ⟨by decide, rfl, .inr ⟨_, rfl⟩⟩

/-- A block held in reset, its release pending. -/
theorem test_witness_ReleaseOfReset :
    let s := (resting [.rstN true]).enterReset
    s.cfg.wellFormed = true ∧ s.rstN = false ∧ s.sched = [.rstN true] ∧ s.phase = .idle := by decide

theorem test_witness_released_and_busy :
    (flying []).cfg.wellFormed = true ∧ (flying []).rstN = true ∧ (flying []).phase = .busy := by decide

theorem test_witness_ReservedOffsets :
    0x06C ≤ (0x06C : BitVec 13).toNat ∧ (0xFFF : BitVec 13).toNat < 0x1000 := by decide

theorem test_witness_LowOffsetBits :
    (0xFFC : BitVec 13).extractLsb' 2 11 = (0xFFF : BitVec 13).extractLsb' 2 11 ∧
      (0xFFC : BitVec 13).toNat < 0x1000 := by decide

theorem test_witness_ConfigurationWrites :
    (locked []).lock = true ∧ (locked []).rstN = true ∧ (flying []).lock = false := by decide

theorem test_witness_ReadOnly :
    (0x003 : BitVec 13).toNat / 4 = 0 ∧ (0x020 : BitVec 13).toNat / 4 = 8 ∧
      (0x027 : BitVec 13).toNat / 4 = 9 ∧ (0x038 : BitVec 13).toNat / 4 = 14 ∧
      (0x06B : BitVec 13).toNat / 4 = 26 := by decide

/-- A window read at the last offset of a 64-byte buffer and one past it. -/
theorem test_witness_WindowRead :
    let s := loaded tiny 60 [1, 2, 3, 4]
    s.rstN = true ∧ s.phase = .idle ∧ ∃ lane : Nat → Nat, ∀ i, lane i =
      if 4 * (63 / 4) + i < s.cfg.bufSize then (s.readByte (4 * (63 / 4) + i)).toNat else 0 :=
  ⟨rfl, rfl, _, fun _ => rfl⟩

theorem test_witness_WindowWrite :
    let s := loaded tiny 0 []
    s.rstN = true ∧ s.phase = .idle ∧ 0xFFF < 0x1000 ∧ (0b1000 : BitVec 4).getLsbD 3 = true ∧
      4 * (63 / 4) + 3 < s.cfg.bufSize := by decide

theorem test_witness_WindowIsClosed :
    (flying []).rstN = true ∧ (flying []).phase = .busy ∧ 0x1000 ≤ (0x1000 : BitVec 13).toNat := by
  decide

theorem test_witness_ScriptWriteBytes :
    let s := loaded tiny 0 []
    s.rstN = true ∧ s.phase = .idle ∧ s.cfg.wellFormed = true ∧
      59 + [1, 2, 3, 4, (5 : Byte)].length ≤ s.cfg.bufSize := by decide

theorem test_witness_IllegalWord :
    let s : State := { issued 0x80000005 0 0 0 0 State.reset with sched := [.engine] }
    s.cfg.wellFormed = true ∧ s.phase = .busy ∧ s.rstN = true ∧
      decode s.latch.cmd = .error (.reservedBits 0x8000000) ∧ s.sched = [.engine] := by decide

/-! The commands, clause by clause, in the small configuration. -/

theorem test_witness_Pad_clauses :
    let s1 := issued 1 60 5 0 0 (loaded tiny 0 [])
    let s2 := issued 1 60 4 0 7 (loaded tiny 0 [])
    let s3 := issued 1 60 4 57 8 (loaded tiny 0 [])
    let s4 := issued 1 60 4 56 8 (loaded tiny 0 [])
    (s1.cfg.wellFormed = true ∧ s1.cfg.bufSize < s1.srcAt + s1.srcCount) ∧
    (s2.srcAt + s2.srcCount ≤ s2.cfg.bufSize ∧ s2.dstCount < 8) ∧
    (s3.srcAt + s3.srcCount ≤ s3.cfg.bufSize ∧ 8 ≤ s3.dstCount ∧ s3.cfg.bufSize < s3.dstAt + 8) ∧
    (s4.srcAt + s4.srcCount ≤ s4.cfg.bufSize ∧ 8 ≤ s4.dstCount ∧ s4.dstAt + 8 ≤ s4.cfg.bufSize) ∧
    4 + (4 - 4 % 4) = 8 := by decide

theorem test_witness_Unpad_clauses :
    let s1 := issued 2 64 1 0 0 (loaded tiny 0 [])
    let s2 := issued 2 60 4 0 0 (loaded tiny 60 [1, 2, 3, 5])
    let s3 := issued 2 60 4 0 0 (loaded tiny 60 [4, 4, 4, 4])
    s1.cfg.bufSize < s1.srcAt + 1 ∧
    (s2.srcAt + 4 ≤ s2.cfg.bufSize ∧ (s2.readByte (s2.srcAt + 3)).toNat > s2.cfg.blockSize) ∧
    (s3.srcAt + 4 ≤ s3.cfg.bufSize ∧ (s3.readByte (s3.srcAt + 3)).toNat = 4 ∧
      ¬ (4 > s3.cfg.blockSize) ∧ (List.range 4).all (fun i => s3.readByte (s3.srcAt + i) == 4)) := by
  decide

theorem test_witness_Crc_clauses :
    let s1 := issued 3 60 5 0 0 (loaded tiny 0 [])
    let s2 := issued 3 60 4 0 0 (loaded tiny 0 [])
    s1.cfg.bufSize < s1.srcAt + s1.srcCount ∧ s2.srcAt + s2.srcCount ≤ s2.cfg.bufSize := by decide

theorem test_witness_Verify_clauses :
    let s1 := issued 4 60 5 0 0 (loaded tiny 0 [])
    let s2 := issued 4 60 3 0 0 (loaded tiny 0 [])
    let s3 := issued 4 60 4 0 0 (loaded tiny 60 [0, 0, 0, 0])
    let s4 := issued 4 60 4 0 0 (loaded tiny 60 [0, 0, 0, 1])
    s1.cfg.bufSize < s1.srcAt + s1.srcCount ∧
    (s2.srcAt + s2.srcCount ≤ s2.cfg.bufSize ∧ s2.srcCount < 4) ∧
    (s3.srcAt + s3.srcCount ≤ s3.cfg.bufSize ∧ 4 ≤ s3.srcCount ∧
      (crcFn s3.cfg []).toNat = s3.storedChecksum (s3.srcAt + 0)) ∧
    (s4.srcAt + s4.srcCount ≤ s4.cfg.bufSize ∧ 4 ≤ s4.srcCount ∧
      (crcFn s4.cfg []).toNat ≠ s4.storedChecksum (s4.srcAt + 0)) := by decide

/-- Payloads of 2 bytes (T = `MAX_FRAME` = 20) and of 3, the frame ending at the buffer's end. -/
theorem test_witness_Build_clauses :
    let s1 := issued 5 0 2 45 0 (loaded tiny 0 [])
    let s2 := issued 5 0 2 44 0 (loaded tiny 0 [])
    let s3 := issued 5 0 3 44 0 (loaded tiny 0 [])
    (s1.cfg.wellFormed = true ∧ s1.cfg.bufSize < s1.dstAt + 20) ∧
    (s2.srcAt + s2.srcCount ≤ s2.cfg.bufSize ∧ s2.dstAt + 20 ≤ s2.cfg.bufSize ∧
      max s2.cfg.minFrame (min (18 + s2.srcCount) s2.cfg.maxFrame) = 20 ∧
      18 + s2.srcCount ≤ s2.cfg.maxFrame) ∧
    (s3.srcAt + s3.srcCount ≤ s3.cfg.bufSize ∧ s3.dstAt + 20 ≤ s3.cfg.bufSize ∧
      max s3.cfg.minFrame (min (18 + s3.srcCount) s3.cfg.maxFrame) = 20 ∧
      s3.cfg.maxFrame < 18 + s3.srcCount) := by decide

/-- V14: the zero-fill, T = 34 below `MIN_FRAME` = 48, 14 bytes of fill. -/
theorem test_witness_Build_zero_fill :
    let s := issued 5 0 16 0x200 0 (loaded Config.defaults 0 (List.replicate 16 0x10))
    let t := after (exec .build s)
    s.cfg.wellFormed = true ∧ s.srcAt + s.srcCount ≤ s.cfg.bufSize ∧
      max s.cfg.minFrame (min (18 + s.srcCount) s.cfg.maxFrame) = 48 ∧ 18 + s.srcCount < 48 ∧
      s.dstAt + 48 ≤ s.cfg.bufSize ∧ t.code = .ok ∧ t.resLen = 48 ∧
      region t (0x200 + 12) 36 = [0x00, 0x14] ++ List.replicate 16 0x10 ++ [0xBA, 0x54, 0xD2, 0xD6] ++
        List.replicate 14 0 := by decide +kernel

theorem test_witness_Parse_clauses :
    let f : List Byte := List.replicate 12 0
    let s1 := issued 6 60 5 0 0 (loaded tiny 0 [])
    let s2 := issued 6 0 13 0 0 (loaded tiny 0 f)
    let s3 := issued 6 0 17 0 0 (loaded tiny 0 (f ++ [0, 3, 0, 0, 0]))
    let s4 := issued 6 0 18 0 0 (loaded tiny 0 (f ++ [0, 4, 0, 0, 0, 0]))
    (s1.cfg.wellFormed = true ∧ s1.cfg.bufSize < s1.srcAt + s1.srcCount) ∧
    (s2.srcAt + s2.srcCount ≤ s2.cfg.bufSize ∧ s2.srcCount < 14) ∧
    (s3.srcAt + s3.srcCount ≤ s3.cfg.bufSize ∧ 14 + 3 ≤ s3.srcCount ∧
      (s3.readByte (s3.srcAt + 12)).toNat * 256 + (s3.readByte (s3.srcAt + 13)).toNat = 3) ∧
    (s4.srcAt + s4.srcCount ≤ s4.cfg.bufSize ∧ 14 + 4 ≤ s4.srcCount ∧
      (s4.readByte (s4.srcAt + 12)).toNat * 256 + (s4.readByte (s4.srcAt + 13)).toNat = 4) := by decide

theorem test_witness_Completions_truncated :
    (after (exec .build (issued 5 0 3 44 0 (loaded tiny 0 [1, 2, 3])))).trunc = true := by decide +kernel

theorem test_witness_PadSize : 1 ≤ tiny.blockSize ∧ 8 % tiny.blockSize = 0 := by decide

/-- Two states that differ outside the source region only. -/
theorem test_witness_region_agreement :
    let s := issued 1 0 2 8 8 (loaded tiny 0 [1, 2, 3])
    let u := issued 1 0 2 8 8 (loaded tiny 0 [1, 2, 4])
    u.cfg = s.cfg ∧ u.latch = s.latch ∧ s.cfg.wellFormed = true ∧ u ≠ s ∧
      (List.range s.srcCount).all (fun i => u.readByte (s.srcAt + i) == s.readByte (s.srcAt + i)) := by
  decide

theorem test_witness_PadThenUnpad :
    let s := issued 1 0 3 60 4 (loaded tiny 0 [1, 2, 3])
    s.cfg.wellFormed = true ∧ s.srcCount + padSize s.cfg.blockSize s.srcCount = 4 ∧
      s.srcAt + s.srcCount ≤ s.cfg.bufSize ∧ 4 ≤ s.dstCount ∧ s.dstAt + 4 ≤ s.cfg.bufSize := by decide

theorem test_witness_BuildThenParse :
    let s := issued 5 0 2 44 0 (loaded tiny 0 [1, 2])
    s.cfg.wellFormed = true ∧ ∃ t, exec .build s = .next t ∧ t.code = .ok :=
  ⟨by decide, _, rfl, rfl⟩

theorem test_witness_TruncatedFrame :
    let s := issued 5 0 3 44 0 (loaded tiny 0 [1, 2, 3])
    s.cfg.wellFormed = true ∧ ∃ t, exec .build s = .next t ∧ t.trunc = true :=
  ⟨by decide, _, rfl, rfl⟩

/-- Two frames that differ in the byte after the declared region only. -/
theorem test_witness_ParseIgnores :
    let f : List Byte := List.replicate 12 0 ++ [0, 4, 1, 2, 3, 4]
    let s := issued 6 0 19 0 0 (loaded tiny 0 (f ++ [0]))
    let u := issued 6 0 19 0 0 (loaded tiny 0 (f ++ [9]))
    u.cfg = s.cfg ∧ u.latch = s.latch ∧
      (s.readByte (s.srcAt + 12)).toNat * 256 + (s.readByte (s.srcAt + 13)).toNat = 4 ∧
      (List.range (14 + 4)).all (fun i => u.readByte (s.srcAt + i) == s.readByte (s.srcAt + i)) ∧
      u ≠ s := by decide

theorem test_witness_FailingParse :
    (after (exec .parse (issued 6 0 13 0 0 (loaded tiny 0 [])))).code ≠ .ok := by decide

theorem test_witness_CorruptedChecksum :
    let s := issued 4 0 4 0 0 (loaded tiny 0 [0, 0, 0, 0])
    let u := issued 4 0 4 0 0 (loaded tiny 0 [0, 0, 0, 1])
    (∃ t, exec .verify s = .next t ∧ t.code = .ok) ∧ u.cfg = s.cfg ∧ u.latch = s.latch ∧
      s.srcCount - 4 = 0 ∧
      u.readByte (s.srcAt + (s.srcCount - 4 + 3)) ≠ s.readByte (s.srcAt + (s.srcCount - 4 + 3)) :=
  ⟨⟨_, rfl, by decide +kernel⟩, by decide, by decide, by decide, by decide⟩

theorem test_witness_SingleByteChange : (0x54 : Byte) ≠ 0xD4 := by decide

theorem test_witness_CheckValues : Config.defaults.crcFn = .reference := by decide

/-- One field of two bytes: a CRC of it, and a VERIFY whose region starts with it, elsewhere and with
another past. -/
theorem test_witness_SeededAfresh :
    let s := issued 3 0 2 0 0 (loaded tiny 0 [1, 2])
    let u := issued 4 58 6 0 0 { loaded tiny 58 [1, 2, 0, 0, 0, 0] with crcValue := 7 }
    s.cfg.wellFormed = true ∧ u.cfg = s.cfg ∧
      (Instr.crc, s.srcCount) ∈ [(Instr.crc, 2), (.verify, 2 + 4), (.build, 2)] ∧
      (Instr.verify, u.srcCount) ∈ [(Instr.crc, 2), (.verify, 2 + 4), (.build, 2)] ∧
      s.srcAt + s.srcCount ≤ s.cfg.bufSize ∧ u.srcAt + u.srcCount ≤ u.cfg.bufSize ∧
      (List.range 2).all (fun a => u.readByte (u.srcAt + a) == s.readByte (s.srcAt + a)) := by decide

/-- The same field with a BUILD, whose frame ends at the buffer's end. -/
theorem test_witness_SeededAfresh_build :
    let u := issued 5 0 2 44 0 (loaded tiny 0 [1, 2])
    (Instr.build, u.srcCount) ∈ [(Instr.crc, 2), (.verify, 2 + 4), (.build, 2)] ∧
      (after (exec .build u)).code ≠ .rangeError := by decide +kernel

theorem test_witness_ScriptReadBytes :
    let s := loaded tiny 0 []
    s.rstN = true ∧ s.phase = .idle ∧ s.cfg.wellFormed = true ∧ 59 + 5 ≤ s.cfg.bufSize := by decide

end Sys2Proof.Tests
end

section
/-! PROOF. 00_scope.md R5: a step is refused exactly in a configuration that breaks a constraint. -/

namespace Sys2Proof

/-- The list of sizes in `bufSizeOk` holds exactly the powers of two of 00_scope.md R5. -/
theorem Config.bufSizeOk_iff (c : Config) :
    c.bufSizeOk = true ↔ (∃ k, c.bufSize = 2 ^ k) ∧ 64 ≤ c.bufSize ∧ c.bufSize ≤ 4096 := by
  simp only [Config.bufSizeOk, List.contains_iff_mem]
  constructor
  · intro h
    have hexp : ∃ k ∈ [6, 7, 8, 9, 10, 11, 12], 2 ^ k = c.bufSize := List.mem_map.mp h
    have hrange : ∀ n ∈ [64, 128, 256, 512, 1024, 2048, 4096], 64 ≤ n ∧ n ≤ 4096 := by decide
    obtain ⟨k, -, hk⟩ := hexp
    exact ⟨⟨k, hk.symm⟩, hrange _ h⟩
  · rintro ⟨⟨k, hk⟩, hlo, hhi⟩
    rw [hk] at hlo hhi ⊢
    have hk6 : 6 ≤ k := (Nat.pow_le_pow_iff_right (a := 2) (by decide)).mp hlo
    have hk12 : k ≤ 12 := (Nat.pow_le_pow_iff_right (a := 2) (by decide)).mp hhi
    interval_cases k <;> decide

/-- `Config.wellFormed` is the conjunction of the constraints of 00_scope.md R5. -/
theorem Config.wellFormed_iff (c : Config) : c.wellFormed = true ↔
    1 ≤ c.blockSize ∧ c.blockSize ≤ 255 ∧
      18 ≤ c.minFrame ∧ c.minFrame ≤ c.maxFrame ∧ c.maxFrame ≤ c.bufSize ∧
      (∃ k, c.bufSize = 2 ^ k) ∧ 64 ≤ c.bufSize ∧ c.bufSize ≤ 4096 := by
  simp only [Config.wellFormed, Config.blockSizeOk, Config.frameBoundsOk, Bool.and_eq_true,
    decide_eq_true_eq, Config.bufSizeOk_iff, and_assoc]

end Sys2Proof

namespace Sys2Proof.Machine

/-- In a good configuration no agent's turn faults or is refused (60_exceptions.md R237). -/
theorem step_next_of_wellFormed {s : State} (h : s.cfg.wellFormed = true) :
    ∃ t, step s = .next t := by
  rw [step, if_pos h]
  split
  · exact engineTurn_next s
  · next a rest _ => exact ⟨({ s with sched := rest }).busStep a, rfl⟩
  · next rest _ => exact engineTurn_next { s with sched := rest }
  · next level rest _ => exact ⟨({ s with sched := rest }).driveRstN level, rfl⟩

/-- No agent's turn is taken in a bad configuration. -/
theorem step_refused_of_not_wellFormed {s : State} (h : ¬ s.cfg.wellFormed = true) :
    step s = .refused .badConfiguration := by
  rw [step, if_neg h]

/-- Settles O6: the constraints are `Config.wellFormed`, on which `step` branches before any turn. -/
theorem stepRefusesExactlyTheBadConfigurations :
    Obligations.StepRefusesExactlyTheBadConfigurations := by
  unfold Obligations.StepRefusesExactlyTheBadConfigurations
  intro s
  rw [← Config.wellFormed_iff]
  exact ⟨step_next_of_wellFormed, step_refused_of_not_wellFormed⟩

end Sys2Proof.Machine
end

section
/-! PROOF. 10_state.md R24-R44: what a host write to a control, status, command or configuration
register does, and which bits of `CTRL` and `STATUS` read 0. -/

namespace Sys2Proof.Machine

/-- A bit above the low operand of a concatenation is a bit of the high one. -/
theorem getLsbD_append_of_le {m n k : Nat} (x : BitVec m) (y : BitVec n) (h : n ≤ k) :
    (x ++ y).getLsbD k = x.getLsbD (k - n) := by
  rw [BitVec.getLsbD_append, if_neg (Nat.not_lt.mpr h)]

/-- The field a write stores, as the number the written word leaves below the field's width. -/
theorem setWidth_eq_ofNat_mod (n : Nat) (w : Word) :
    w.setWidth n = BitVec.ofNat n (w.toNat % 2 ^ n) := by
  apply BitVec.eq_of_toNat_eq
  simp

section
variable (s : State)

theorem State.ctrlWord_reserved {k : Nat} (h : 2 ≤ k) : s.ctrlWord.getLsbD k = false := by
  have hfields : s.ctrlWord.getLsbD k = (0 : BitVec 30).getLsbD (k - 1 - 1) :=
    (getLsbD_append_of_le _ _ (by omega)).trans (getLsbD_append_of_le _ _ (by omega))
  rw [hfields]
  exact BitVec.getLsbD_zero

theorem State.statusWord_reserved {k : Nat} (h : 8 ≤ k) : s.statusWord.getLsbD k = false := by
  have hflags : s.statusWord.getLsbD k =
      ((0 : BitVec 24) ++ s.code.bits).getLsbD (k - 1 - 1 - 1 - 1) := by
    rw [State.statusWord]
    iterate 4 rw [getLsbD_append_of_le _ _ (by omega)]
  rw [hflags, getLsbD_append_of_le _ _ (by omega)]
  exact BitVec.getLsbD_zero

theorem State.writeCtrl_eq (w : Word) : s.writeCtrl w =
    { s with irqEn := w.getLsbD 0, lock := if w.getLsbD 1 then true else s.lock } := by
  have hlock : (s.lock || w.getLsbD 1) = if w.getLsbD 1 then true else s.lock := by
    cases w.getLsbD 1 <;> simp
  rw [State.writeCtrl, hlock]

theorem State.writeStatus_eq (w : Word) : s.writeStatus w =
    { s with done := if w.getLsbD 1 then false else s.done,
             overrun := if w.getLsbD 3 then false else s.overrun } := by
  have hw1c : ∀ flag clear : Bool, (flag && !clear) = if clear then false else flag := by decide
  rw [State.writeStatus, hw1c, hw1c]

theorem State.writeCmd_of_busy (hp : s.phase = .busy) (w : Word) :
    s.writeCmd w = s.setOverrun :=
  if_pos (s.busy_iff.mpr hp)

/-- `LOCK` shuts each of the four configuration registers (10_state.md R44). -/
theorem State.writeReg_cfg_of_locked (hl : s.lock = true) (w : Word) {r : Reg}
    (hr : r ∈ [Reg.cfgDstLo, .cfgDstHi, .cfgSrcLo, .cfgSrcHi]) : s.writeReg r w = s := by
  simp only [List.mem_cons, List.not_mem_nil, or_false] at hr
  rcases hr with rfl | rfl | rfl | rfl <;> exact if_pos hl

end

/-- Settles O31: each offset names its register, whose write branches on `LOCK` alone. -/
theorem configurationWritesObeyTheLock : Obligations.ConfigurationWritesObeyTheLock := by
  unfold Obligations.ConfigurationWritesObeyTheLock
  intro s w strb hr
  refine ⟨fun hl off hoff => ?_, fun hl => ?_⟩
  · have hreg : ∃ r ∈ [Reg.cfgDstLo, .cfgDstHi, .cfgSrcLo, .cfgSrcHi],
        off.toNat / 4 = r.offset / 4 := by
      revert off
      decide
    obtain ⟨r, hmem, ho⟩ := hreg
    rw [s.busStep_write_at w strb hr ho, s.writeReg_cfg_of_locked hl w hmem]
  · have hn : ¬ s.lock = true := by simp [hl]
    rw [← setWidth_eq_ofNat_mod]
    exact ⟨(s.busStep_write_at (r := .cfgDstLo) w strb hr rfl).trans (if_neg hn),
      (s.busStep_write_at (r := .cfgDstHi) w strb hr rfl).trans (if_neg hn),
      (s.busStep_write_at (r := .cfgSrcLo) w strb hr rfl).trans (if_neg hn),
      (s.busStep_write_at (r := .cfgSrcHi) w strb hr rfl).trans (if_neg hn)⟩

/-- Settles O27: the write is `State.writeCtrl`, the read `State.ctrlWord`. -/
theorem controlWriteEnablesAndLocks : Obligations.ControlWriteEnablesAndLocks := by
  unfold Obligations.ControlWriteEnablesAndLocks
  intro s w strb hr
  exact ⟨(s.busStep_write_at (r := .ctrl) w strb hr rfl).trans (s.writeCtrl_eq w),
    fun _ => s.ctrlWord_reserved⟩

/-- Settles O28: the write is `State.writeStatus`, the read `State.statusWord`. -/
theorem statusWriteClearsOnlyDoneAndOverrun : Obligations.StatusWriteClearsOnlyDoneAndOverrun := by
  unfold Obligations.StatusWriteClearsOnlyDoneAndOverrun
  intro s w strb hr
  exact ⟨(s.busStep_write_at (r := .status) w strb hr rfl).trans (s.writeStatus_eq w),
    fun _ => s.statusWord_reserved⟩

/-- Settles O30: the write is `State.writeCmd`, whose busy branch only records the breach. -/
theorem commandWriteWhileBusyIsDropped : Obligations.CommandWriteWhileBusyIsDropped := by
  unfold Obligations.CommandWriteWhileBusyIsDropped
  intro s w strb hr hp
  exact (s.busStep_write_at (r := .cmd) w strb hr rfl).trans (s.writeCmd_of_busy hp w)

end Sys2Proof.Machine
end

section
/-! PROOF. 30_encoding.md R100-R103: the decoder's three answers, each by the fields of the word, and
what the completion step makes of them. -/

namespace Sys2Proof

/-- `RSV` 0 beside the opcode of a command is that command's word (the converse of
`fields_of_decode`). -/
theorem decode_of_fields {w : Word} {i : Instr} (hr : rsvField w = 0) (ho : opField w = i.opcode) :
    decode w = .ok i := by
  rw [decode, if_pos hr, ho, opcodeInstr_opcode]

theorem decode_of_rsvField_ne_zero {w : Word} (hr : rsvField w ≠ 0) :
    decode w = .error (.reservedBits (rsvField w)) :=
  if_neg hr

theorem decode_of_opcodeInstr_none {w : Word} (hr : rsvField w = 0)
    (ho : opcodeInstr (opField w) = none) : decode w = .error (.reservedOpcode (opField w)) := by
  rw [decode, if_pos hr, ho]

theorem decode_encode (i : Instr) : decode (encode i) = .ok i := by
  have hrsv : rsvField (encode i) = 0 := by cases i <;> decide
  have hop : opField (encode i) = i.opcode := by cases i <;> decide
  exact decode_of_fields hrsv hop

/-- The opcodes of the commands are exactly 0x1..0x6 (30_encoding.md R102, R103). -/
theorem exists_opcode_eq_iff (op : BitVec 4) :
    (∃ i : Instr, i.opcode = op) ↔ 1 ≤ op.toNat ∧ op.toNat ≤ 6 := by
  constructor
  · rintro ⟨i, rfl⟩
    cases i <;> decide
  · rintro ⟨hlo, hhi⟩
    have hsome : ∀ o : BitVec 4, 1 ≤ o.toNat → o.toNat ≤ 6 → (opcodeInstr o).isSome := by decide
    obtain ⟨i, hi⟩ := Option.isSome_iff_exists.mp (hsome op hlo hhi)
    exact ⟨i, (opcode_of_opcodeInstr hi).symm⟩

/-- Settles O1: the legal words are `encode` of their commands, and of each reserved word the field
that bars it is read off. -/
theorem decoderReadsTheSixCommandWords : Obligations.DecoderReadsTheSixCommandWords := by
  unfold Obligations.DecoderReadsTheSixCommandWords
  exact ⟨decode_encode .pad, decode_encode .unpad, decode_encode .crc, decode_encode .verify,
    decode_encode .build, decode_encode .parse,
    decode_of_opcodeInstr_none rfl rfl, decode_of_opcodeInstr_none rfl rfl,
    decode_of_opcodeInstr_none rfl rfl,
    decode_of_rsvField_ne_zero (by decide), decode_of_rsvField_ne_zero (by decide)⟩

end Sys2Proof

namespace Sys2Proof.Machine

theorem engineStep_of_decode_ok {s : State} {i : Instr} (h : decode s.latch.cmd = .ok i) :
    engineStep s = exec i s := by
  rw [engineStep, h]

theorem engineStep_of_decode_error {s : State} {e : DecodeReject}
    (h : decode s.latch.cmd = .error e) : engineStep s = completeIllegal s := by
  rw [engineStep, h]

/-- Settles O3: a legal word is `RSV` 0 beside the opcode of some command, which the decoder accepts;
an accepted word is legal, so the decoder rejects every other one. -/
theorem legalWordsRunAndOthersAreIllegal : Obligations.LegalWordsRunAndOthersAreIllegal := by
  unfold Obligations.LegalWordsRunAndOthersAreIllegal
  rintro s rsv op rfl rfl
  rw [← exists_opcode_eq_iff]
  constructor
  · rintro ⟨hrsv, i, hop⟩
    exact ⟨i, hop, engineStep_of_decode_ok (decode_of_fields hrsv hop.symm)⟩
  · intro hillegal
    cases hd : decode s.latch.cmd with
    | ok i =>
      obtain ⟨hrsv, hop⟩ := fields_of_decode hd
      exact absurd ⟨hrsv, i, hop.symm⟩ hillegal
    | error e => exact engineStep_of_decode_error hd

end Sys2Proof.Machine
end

section
/-! PROOF. 40_padding.md R131-R139: the pad size, PAD and UNPAD case by case with their frames, the
regions PAD touches, and the round trip. -/

namespace Sys2Proof.Machine

/-! ### The pad size -/

/-- The padded length is the next block boundary above `n`, also when `n` lies on one. -/
theorem add_padSize {blk : Nat} (h : 1 ≤ blk) (n : Nat) :
    n + padSize blk n = blk * (n / blk + 1) := by
  have hdiv := Nat.div_add_mod n blk
  have hmod := Nat.mod_lt n h
  rw [padSize, Nat.mul_succ]
  omega

/-- Settles O45: the padded length is `B * (n / B + 1)`, and the bounds are `padSize_bounds`. -/
theorem padSizeIsAForcedFullBlock : Obligations.PadSizeIsAForcedFullBlock := by
  unfold Obligations.PadSizeIsAForcedFullBlock
  intro blk n hblk
  obtain ⟨hpos, hle⟩ := padSize_bounds hblk n
  have haligned : n % blk = 0 → padSize blk n = blk := fun h => by rw [padSize, h, Nat.sub_zero]
  have hwhole : (n + padSize blk n) % blk = 0 := by rw [add_padSize hblk, Nat.mul_mod_right]
  exact ⟨rfl, haligned, hpos, hle, hwhole, Nat.lt_add_of_pos_right hpos⟩

/-! ### PAD -/

/-- `p`, the pad size of the latched message (40_padding.md R131). -/
def State.padCount (s : State) : Nat := padSize s.cfg.blockSize s.srcCount

/-- `n`, the padded length of the latched message (40_padding.md R132). -/
def State.paddedCount (s : State) : Nat := s.srcCount + s.padCount

/-- The code a PAD ends with, its checks in the order of 40_padding.md R133. -/
def State.padCode (s : State) : ResultCode :=
  if s.cfg.bufSize < s.srcAt + s.srcCount then .rangeError
  else if s.dstCount < s.paddedCount then .bufferTooLarge
  else if s.cfg.bufSize < s.dstAt + s.paddedCount then .rangeError
  else .ok

/-- The completion of a PAD or UNPAD that fails: `RES_LEN <- 0; raise CODE`. -/
def State.failed (s : State) (code : ResultCode) : State :=
  s.completed s.mem 0 s.crcValue s.prs code false

/-- The completion of a PAD that succeeds. -/
def State.afterPad (s : State) : State :=
  s.completed (s.mem.write s.dstAt (padded s.source s.padCount)) (BitVec.ofNat 13 s.paddedCount)
    s.crcValue s.prs .ok false

/-- The checks of PAD look at the parameters and the latch alone. -/
theorem State.padCode_congr {s u : State} (hc : u.cfg = s.cfg) (hl : u.latch = s.latch) :
    u.padCode = s.padCode := by
  unfold State.padCode State.paddedCount State.padCount State.srcAt State.srcCount State.dstAt
    State.dstCount
  rw [hc, hl]

section
variable {s : State}

theorem State.padCode_of_source_beyond (h : s.cfg.bufSize < s.srcAt + s.srcCount) :
    s.padCode = .rangeError :=
  if_pos h

theorem State.padCode_of_above_capacity (hsrc : s.srcAt + s.srcCount ≤ s.cfg.bufSize)
    (h : s.dstCount < s.paddedCount) : s.padCode = .bufferTooLarge := by
  rw [State.padCode, if_neg (Nat.not_lt.mpr hsrc), if_pos h]

theorem State.padCode_of_output_beyond (hsrc : s.srcAt + s.srcCount ≤ s.cfg.bufSize)
    (hcap : s.paddedCount ≤ s.dstCount) (h : s.cfg.bufSize < s.dstAt + s.paddedCount) :
    s.padCode = .rangeError := by
  rw [State.padCode, if_neg (Nat.not_lt.mpr hsrc), if_neg (Nat.not_lt.mpr hcap), if_pos h]

theorem State.padCode_eq_ok_iff : s.padCode = .ok ↔ s.srcAt + s.srcCount ≤ s.cfg.bufSize ∧
    s.paddedCount ≤ s.dstCount ∧ s.dstAt + s.paddedCount ≤ s.cfg.bufSize := by
  unfold State.padCode
  split
  · simp; omega
  · split
    · simp; omega
    · split
      · simp; omega
      · simp; omega

end

/-- PAD in full: it writes the padded message exactly when its checks give `OK`. -/
theorem execPad_eq (s : State) : execPad s =
    .next (if s.padCode = .ok then s.afterPad else s.failed s.padCode) := by
  unfold execPad
  simp only [State.length_source]
  rw [← State.padCount, ← State.paddedCount]
  split
  case isFalse hsrc =>
    rw [State.padCode_of_source_beyond (Nat.not_le.mp (mt s.sourceInRange_iff.mpr hsrc))]
    rfl
  case isTrue hsrc =>
    have hsrc := s.sourceInRange_iff.mp hsrc
    split
    case isTrue hcap =>
      rw [State.padCode_of_above_capacity hsrc hcap]
      rfl
    case isFalse hcap =>
      have hcap := Nat.not_lt.mp hcap
      split
      case isTrue hdst =>
        rw [if_pos (State.padCode_eq_ok_iff.mpr ⟨hsrc, hcap, (inRange_iff ..).mp hdst⟩)]
        rfl
      case isFalse hdst =>
        rw [State.padCode_of_output_beyond hsrc hcap (Nat.not_le.mp (mt (inRange_iff ..).mpr hdst))]
        rfl

theorem execPad_of_padCode_ok {s : State} (h : s.padCode = .ok) : execPad s = .next s.afterPad := by
  rw [execPad_eq, if_pos h]

theorem execPad_of_padCode_ne_ok {s : State} {code : ResultCode} (h : s.padCode = code)
    (hne : code ≠ .ok) : execPad s = .next (s.failed code) := by
  rw [execPad_eq, h, if_neg hne]

/-- In a good configuration a pad size fits the byte that the pad repeats. -/
theorem State.padCount_bounds {s : State} (hwf : s.cfg.wellFormed = true) :
    1 ≤ s.padCount ∧ s.padCount ≤ s.cfg.blockSize ∧ s.padCount < 256 := by
  obtain ⟨hpos, hmax, -⟩ := Config.bounds hwf
  obtain ⟨hlo, hhi⟩ := padSize_bounds hpos s.srcCount
  exact ⟨hlo, hhi, by rw [State.padCount]; omega⟩

/-- A padded length that fits the capacity fits `RES_LEN`. -/
theorem State.afterPad_resLen_toNat {s : State} (hcap : s.paddedCount ≤ s.dstCount) :
    s.afterPad.resLen.toNat = s.paddedCount := by
  have hwidth : s.dstCount < 2 ^ 13 := s.latch.dstCap.isLt
  exact BitVec.toNat_ofNat _ _ |>.trans (Nat.mod_eq_of_lt (by omega))

section
variable (s : State)

theorem State.length_padded_source : (padded s.source s.padCount).length = s.paddedCount := by
  rw [length_padded, State.length_source, State.paddedCount]

/-- The output is the padded message, byte by byte. -/
theorem State.readByte_afterPad_output {i : Nat} (h : i < s.paddedCount) :
    s.afterPad.readByte (s.dstAt + i) = (padded s.source s.padCount).getD i 0 := by
  have hi : i < (padded s.source s.padCount).length := by rwa [State.length_padded_source]
  rw [← List.getElem_eq_getD (h := hi)]
  exact s.readByte_memWrite_at s.dstAt _ i hi

/-- The message stands at the destination, as it was before the command. -/
theorem State.readByte_afterPad_message {i : Nat} (h : i < s.srcCount) :
    s.afterPad.readByte (s.dstAt + i) = s.readByte (s.srcAt + i) := by
  rw [State.readByte_afterPad_output s (Nat.lt_add_right _ h)]
  simp [padded, List.getElem?_append_left, h]

/-- Every byte of the pad holds the pad size. -/
theorem State.readByte_afterPad_pad {i : Nat} (h : i < s.padCount) :
    s.afterPad.readByte (s.dstAt + (s.srcCount + i)) = BitVec.ofNat 8 s.padCount := by
  rw [State.readByte_afterPad_output s (Nat.add_lt_add_left h _)]
  simp [padded, h]

theorem State.bufferSameOutside_afterPad :
    BufferSameOutside s s.afterPad s.dstAt s.paddedCount := by
  intro a ha
  rw [← State.length_padded_source] at ha
  exact s.readByte_memWrite_other _ _ _ ha

end

theorem State.readByte_afterPad_pad_toNat {s : State} (hwf : s.cfg.wellFormed = true) {i : Nat}
    (h : i < s.padCount) :
    (s.afterPad.readByte (s.dstAt + (s.srcCount + i))).toNat = s.padCount := by
  obtain ⟨-, -, hbyte⟩ := State.padCount_bounds hwf
  rw [State.readByte_afterPad_pad s h, BitVec.toNat_ofNat, Nat.mod_eq_of_lt hbyte]

/-- Settles O38: each clause fixes the code of PAD's checks, and with it the completion. -/
theorem padWritesThePaddedMessage : Obligations.PadWritesThePaddedMessage := by
  unfold Obligations.PadWritesThePaddedMessage
  rintro s p n hwf rfl rfl
  refine ⟨fun hsrc => ?_, fun hsrc hcap => ?_, fun hsrc hcap hdst => ?_, fun hsrc hcap hdst => ?_⟩
  · exact execPad_of_padCode_ne_ok (State.padCode_of_source_beyond hsrc) nofun
  · exact execPad_of_padCode_ne_ok (State.padCode_of_above_capacity hsrc hcap) nofun
  · exact execPad_of_padCode_ne_ok (State.padCode_of_output_beyond hsrc hcap hdst) nofun
  · exact ⟨s.afterPad, execPad_of_padCode_ok (State.padCode_eq_ok_iff.mpr ⟨hsrc, hcap, hdst⟩), rfl,
      State.afterPad_resLen_toNat hcap, fun _ => s.readByte_afterPad_message,
      fun _ => State.readByte_afterPad_pad_toNat hwf, s.bufferSameOutside_afterPad⟩

/-- Settles O46: both states pass or fail the same checks; on success both write one
padded message, since source and pad size agree. -/
theorem padTouchesOnlyItsRegions : Obligations.PadTouchesOnlyItsRegions := by
  unfold Obligations.PadTouchesOnlyItsRegions
  intro s u hc hl hwf hsame
  have hcode : u.padCode = s.padCode := State.padCode_congr hc hl
  have hdstAt : u.dstAt = s.dstAt := congrArg (·.dstPtr.toNat) hl
  have hsrcCount : u.srcCount = s.srcCount := congrArg (·.srcLen.toNat) hl
  have hpad : u.padCount = s.padCount := by rw [State.padCount, hc, hsrcCount, ← State.padCount]
  have hpadded : u.paddedCount = s.paddedCount := by
    rw [State.paddedCount, hsrcCount, hpad, ← State.paddedCount]
  have hsource : u.source = s.source := State.source_congr hl hsame
  by_cases hok : s.padCode = .ok
  · obtain ⟨-, hcap, -⟩ := State.padCode_eq_ok_iff.mp hok
    have hlen := State.afterPad_resLen_toNat hcap
    refine ⟨s.afterPad, u.afterPad, execPad_of_padCode_ok hok,
      execPad_of_padCode_ok (hcode.trans hok), rfl, congrArg (BitVec.ofNat 13) hpadded, ?_,
      hlen ▸ s.bufferSameOutside_afterPad⟩
    intro i hi
    rw [hlen] at hi
    have hout : u.afterPad.readByte (u.dstAt + i) = (padded u.source u.padCount).getD i 0 :=
      u.readByte_afterPad_output (hpadded ▸ hi)
    rw [← hdstAt, hout, hsource, hpad, hdstAt, s.readByte_afterPad_output hi]
  · exact ⟨s.failed s.padCode, u.failed s.padCode, execPad_of_padCode_ne_ok rfl hok,
      execPad_of_padCode_ne_ok hcode hok, rfl, rfl, fun i hi => absurd hi (Nat.not_lt_zero i),
      fun _ _ => rfl⟩

/-! ### UNPAD -/

/-- `v`, the last byte of the source region, as a number (40_padding.md R135). -/
def State.padValue (s : State) : Nat := (s.readByte (s.srcAt + (s.srcCount - 1))).toNat

/-- What makes UNPAD answer `INVALID_PADDING` (40_padding.md R135). -/
def State.BadPad (s : State) : Prop :=
  s.srcCount = 0 ∨ s.padValue = 0 ∨ s.padValue > s.cfg.blockSize ∨ s.padValue > s.srcCount ∨
    ∃ i, s.srcCount - s.padValue ≤ i ∧ i < s.srcCount ∧
      (s.readByte (s.srcAt + i)).toNat ≠ s.padValue

/-- Every element from position `k` on is `v`. -/
theorem all_drop_beq_iff (b : List Byte) (k : Nat) (v : Byte) :
    (b.drop k).all (· == v) = true ↔ ∀ i (h : i < b.length), k ≤ i → b[i] = v := by
  simp only [List.all_eq_true, beq_iff_eq, List.mem_drop_iff_getElem]
  constructor
  · intro hall i hi hk
    exact hall _ ⟨i - k, by omega, by simp [Nat.add_sub_cancel' hk]⟩
  · rintro hall _ ⟨j, hj, rfl⟩
    exact hall _ _ (Nat.le_add_right k j)

/-- UNPAD's answer on the source region, in the terms of 40_padding.md R135. -/
theorem State.unpadLength_source_cases (s : State) :
    (unpadLength s.cfg.blockSize s.source = none ∧ s.BadPad) ∨
    (unpadLength s.cfg.blockSize s.source = some (s.srcCount - s.padValue) ∧ ¬ s.BadPad) := by
  rcases Nat.eq_zero_or_pos s.srcCount with hzero | hpos
  · have hnil : s.source = [] := List.eq_nil_of_length_eq_zero (by simp [hzero])
    exact .inl ⟨by rw [hnil]; rfl, .inl hzero⟩
  have hall : (s.source.drop (s.srcCount - s.padValue)).all
      (· == s.readByte (s.srcAt + (s.srcCount - 1))) = true ↔
      ∀ i, i < s.srcCount → s.srcCount - s.padValue ≤ i →
        (s.readByte (s.srcAt + i)).toNat = s.padValue := by
    rw [all_drop_beq_iff]
    simp [State.padValue, BitVec.toNat_inj]
  rw [unpadLength, s.getLast?_source hpos]
  simp only
  rw [← State.padValue, State.length_source]
  split
  case isTrue hvalue =>
    refine .inl ⟨rfl, ?_⟩
    rcases hvalue with h | h | h
    · exact .inr (.inl h)
    · exact .inr (.inr (.inl h))
    · exact .inr (.inr (.inr (.inl h)))
  case isFalse hvalue =>
    push Not at hvalue
    obtain ⟨hzero, hblk, hlen⟩ := hvalue
    split
    case isTrue hsame =>
      refine .inr ⟨rfl, ?_⟩
      rintro (h | h | h | h | ⟨i, hlo, hhi, hdiff⟩)
      · omega
      · exact hzero h
      · omega
      · omega
      · exact hdiff (hall.mp hsame i hhi hlo)
    case isFalse hdiff =>
      rw [hall] at hdiff
      push Not at hdiff
      obtain ⟨i, hhi, hlo, hne⟩ := hdiff
      exact .inl ⟨rfl, .inr (.inr (.inr (.inr ⟨i, hlo, hhi, hne⟩)))⟩

theorem execUnpad_of_source_beyond {s : State} (h : s.cfg.bufSize < s.srcAt + s.srcCount) :
    execUnpad s = .next (s.failed .rangeError) :=
  if_neg (mt s.sourceInRange_iff.mp (Nat.not_le.mpr h))

theorem execUnpad_of_badPad {s : State} (hsrc : s.srcAt + s.srcCount ≤ s.cfg.bufSize)
    (h : s.BadPad) : execUnpad s = .next (s.failed .invalidPadding) := by
  obtain ⟨hnone, -⟩ := s.unpadLength_source_cases.resolve_right (fun hgood => hgood.2 h)
  rw [execUnpad, if_pos (s.sourceInRange_iff.mpr hsrc), hnone]
  rfl

theorem execUnpad_of_not_badPad {s : State} (hsrc : s.srcAt + s.srcCount ≤ s.cfg.bufSize)
    (h : ¬ s.BadPad) : execUnpad s = .next (s.completed s.mem
      (BitVec.ofNat 13 (s.srcCount - s.padValue)) s.crcValue s.prs .ok false) := by
  obtain ⟨hsome, -⟩ := s.unpadLength_source_cases.resolve_left (fun hbad => h hbad.2)
  rw [execUnpad, if_pos (s.sourceInRange_iff.mpr hsrc), hsome]
  rfl

/-- Settles O39: the clauses are the three completions of UNPAD, told apart by the range check and
`BadPad`. -/
theorem unpadValidatesAndStripsThePad : Obligations.UnpadValidatesAndStripsThePad := by
  unfold Obligations.UnpadValidatesAndStripsThePad
  rintro s n v rfl rfl
  exact ⟨execUnpad_of_source_beyond, execUnpad_of_badPad, execUnpad_of_not_badPad⟩

/-- A region of `m` bytes and then `p` bytes of value `p` ends in a good pad of value `p`. -/
theorem State.not_badPad_of_pad {s : State} {m p : Nat} (hcount : s.srcCount = m + p) (hp : 1 ≤ p)
    (hblk : p ≤ s.cfg.blockSize)
    (hpad : ∀ i, i < p → (s.readByte (s.srcAt + (m + i))).toNat = p) :
    s.padValue = p ∧ ¬ s.BadPad := by
  have hvalue : s.padValue = p := by
    rw [State.padValue, hcount, Nat.add_sub_assoc hp]
    exact hpad (p - 1) (Nat.sub_one_lt_of_lt hp)
  refine ⟨hvalue, ?_⟩
  rw [State.BadPad, hvalue, hcount]
  rintro (hempty | hzero | hbig | hlong | ⟨i, hlo, hhi, hdiff⟩)
  · omega
  · omega
  · omega
  · omega
  · obtain ⟨j, rfl⟩ := Nat.exists_eq_add_of_le (show m ≤ i by omega)
    exact hdiff (hpad j (by omega))

/-- UNPAD strips a pad of `p` bytes of value `p`: the length `m` before it is left. -/
theorem execUnpad_of_pad {s : State} {m p : Nat} (hsrc : s.srcAt + s.srcCount ≤ s.cfg.bufSize)
    (hcount : s.srcCount = m + p) (hp : 1 ≤ p) (hblk : p ≤ s.cfg.blockSize)
    (hpad : ∀ i, i < p → (s.readByte (s.srcAt + (m + i))).toNat = p) :
    execUnpad s = .next (s.completed s.mem (BitVec.ofNat 13 m) s.crcValue s.prs .ok false) := by
  obtain ⟨hvalue, hgood⟩ := State.not_badPad_of_pad hcount hp hblk hpad
  have hlen : s.srcCount - s.padValue = m := by rw [hvalue, hcount, Nat.add_sub_cancel]
  rw [execUnpad_of_not_badPad hsrc hgood, hlen]

/-! ### PAD, then UNPAD -/

/-- The state in which the next command's source region is the output of the one before
(40_padding.md R139). -/
def State.sourceIsOutput (s : State) : State :=
  { s with latch := { s.latch with srcPtr := s.latch.dstPtr, srcLen := s.resLen } }

/-- UNPAD of the region a PAD wrote accepts its pad and answers the message's length. -/
theorem execUnpad_sourceIsOutput_afterPad {s : State} (hwf : s.cfg.wellFormed = true)
    (hcap : s.paddedCount ≤ s.dstCount) (hdst : s.dstAt + s.paddedCount ≤ s.cfg.bufSize) :
    execUnpad s.afterPad.sourceIsOutput = .next (s.afterPad.sourceIsOutput.completed s.afterPad.mem
      s.latch.srcLen s.crcValue s.prs .ok false) := by
  obtain ⟨hp, hblk, -⟩ := State.padCount_bounds hwf
  have hcount : s.afterPad.sourceIsOutput.srcCount = s.paddedCount :=
    State.afterPad_resLen_toNat hcap
  have hsrc : s.dstAt + s.afterPad.sourceIsOutput.srcCount ≤ s.cfg.bufSize := by rwa [hcount]
  have hmsg : BitVec.ofNat 13 s.srcCount = s.latch.srcLen := by
    rw [State.srcCount, BitVec.ofNat_toNat, BitVec.setWidth_eq]
  rw [← hmsg]
  exact execUnpad_of_pad hsrc hcount hp hblk fun _ => State.readByte_afterPad_pad_toNat hwf

/-- Settles O48: UNPAD accepts the region PAD wrote, and writes no byte, so the message that PAD put
at the destination stays. -/
theorem padThenUnpadRoundTrips : Obligations.PadThenUnpadRoundTrips := by
  unfold Obligations.PadThenUnpadRoundTrips
  rintro s n hwf rfl hsrc hcap hdst
  exact ⟨s.afterPad, _,
    execPad_of_padCode_ok (State.padCode_eq_ok_iff.mpr ⟨hsrc, hcap, hdst⟩), rfl,
    State.afterPad_resLen_toNat hcap, execUnpad_sourceIsOutput_afterPad hwf hcap hdst, rfl, rfl,
    fun _ => s.readByte_afterPad_message⟩

end Sys2Proof.Machine
end

section
/-! PROOF. 41_checksum.md R163, R166: CRC and VERIFY case by case, with their frames. -/

namespace Sys2Proof.Machine

section
variable {s : State}

/-! ### CRC -/

theorem execCrc_of_source_beyond (h : s.cfg.bufSize < s.srcAt + s.srcCount) :
    execCrc s = .next (s.completed s.mem s.resLen s.crcValue s.prs .rangeError false) :=
  if_neg (mt s.sourceInRange_iff.mp (Nat.not_le.mpr h))

theorem execCrc_of_source_in_range (h : s.srcAt + s.srcCount ≤ s.cfg.bufSize) :
    execCrc s =
      .next (s.completed s.mem s.resLen (crcFn s.cfg s.source) s.prs .ok false) :=
  if_pos (s.sourceInRange_iff.mpr h)

/-! ### VERIFY -/

/-- The checksum that VERIFY recomputes: `CRC_FN` of the source region without its last 4 bytes
(41_checksum.md R166). -/
def State.recomputedChecksum (s : State) : Word :=
  crcFn s.cfg (s.memRead s.srcAt (s.srcCount - 4))

theorem execVerify_of_source_beyond (h : s.cfg.bufSize < s.srcAt + s.srcCount) :
    execVerify s = .next (s.completed s.mem s.resLen s.crcValue s.prs .rangeError false) :=
  if_neg (mt s.sourceInRange_iff.mp (Nat.not_le.mpr h))

theorem execVerify_of_source_short (hsrc : s.srcAt + s.srcCount ≤ s.cfg.bufSize)
    (hshort : s.srcCount < 4) :
    execVerify s = .next (s.completed s.mem s.resLen s.crcValue s.prs .frameTooShort false) := by
  rw [execVerify, if_pos (s.sourceInRange_iff.mpr hsrc)]
  exact if_pos (s.length_source.symm ▸ hshort)

/-- The checksum VERIFY compares with is the one stored in the last 4 bytes of the region. -/
theorem State.eq_cksValue_slice_source_iff (hlen : 4 ≤ s.srcCount) (c : Word) :
    c = cksValue s.cfg.crcOrder (slice s.source (s.srcCount - 4) (s.srcCount - 4 + 4)) ↔
      c.toNat = s.storedChecksum (s.srcAt + (s.srcCount - 4)) := by
  rw [State.slice_source s (by omega) (by omega), Nat.add_sub_cancel_left, ← BitVec.toNat_inj,
    State.cksValue_memRead]

/-- VERIFY of a region that holds a checksum: `CRC_VALUE` takes the recomputed one, and the code says
whether it equals the stored one. -/
theorem execVerify_of_source_long (hsrc : s.srcAt + s.srcCount ≤ s.cfg.bufSize)
    (hlen : 4 ≤ s.srcCount) :
    execVerify s = .next (s.completed s.mem s.resLen s.recomputedChecksum s.prs
      (if s.recomputedChecksum.toNat = s.storedChecksum (s.srcAt + (s.srcCount - 4)) then .ok
        else .checksumMismatch) false) := by
  have hbody : crcFn s.cfg (slice s.source 0 (s.srcCount - 4)) = s.recomputedChecksum :=
    congrArg (crcFn s.cfg) (s.slice_source (Nat.sub_le ..) (Nat.zero_le _))
  rw [execVerify, if_pos (s.sourceInRange_iff.mpr hsrc)]
  simp only [State.length_source, if_neg (Nat.not_lt.mpr hlen), hbody,
    State.eq_cksValue_slice_source_iff hlen]
  split
  · rfl
  · rfl

theorem execVerify_of_checksum_eq (hsrc : s.srcAt + s.srcCount ≤ s.cfg.bufSize)
    (hlen : 4 ≤ s.srcCount)
    (h : s.recomputedChecksum.toNat = s.storedChecksum (s.srcAt + (s.srcCount - 4))) :
    execVerify s =
      .next (s.completed s.mem s.resLen s.recomputedChecksum s.prs .ok false) := by
  rw [execVerify_of_source_long hsrc hlen, if_pos h]

theorem execVerify_of_checksum_ne (hsrc : s.srcAt + s.srcCount ≤ s.cfg.bufSize)
    (hlen : 4 ≤ s.srcCount)
    (h : s.recomputedChecksum.toNat ≠ s.storedChecksum (s.srcAt + (s.srcCount - 4))) :
    execVerify s =
      .next (s.completed s.mem s.resLen s.recomputedChecksum s.prs .checksumMismatch false) := by
  rw [execVerify_of_source_long hsrc hlen, if_neg h]

end

/-- Settles O41: the clauses are the four completions of VERIFY, told apart by the range check, the
length and the comparison with the stored checksum. -/
theorem verifyComparesTheRecomputedChecksum : Obligations.VerifyComparesTheRecomputedChecksum := by
  unfold Obligations.VerifyComparesTheRecomputedChecksum
  rintro s k c rfl rfl
  exact ⟨execVerify_of_source_beyond, execVerify_of_source_short, execVerify_of_checksum_eq,
    execVerify_of_checksum_ne⟩

/-- Settles O40: the clauses are the two completions of CRC, told apart by the range check. -/
theorem crcComputesTheChecksumOfTheRegion : Obligations.CrcComputesTheChecksumOfTheRegion := by
  unfold Obligations.CrcComputesTheChecksumOfTheRegion
  intro s
  exact ⟨execCrc_of_source_beyond, execCrc_of_source_in_range⟩

end Sys2Proof.Machine
end

section
/-! PROOF. 42_frame.md R190-R198: BUILD case by case with its frame, and the regions it touches. -/

namespace Sys2Proof.Machine

/-- `N`, the length of the frame that a BUILD writes (42_frame.md R195). -/
def State.frameCount (s : State) : Nat := clampLength s.cfg (18 + s.srcCount)

/-- The code a BUILD ends with, its checks in the order of 42_frame.md R190. -/
def State.buildCode (s : State) : ResultCode :=
  if s.cfg.bufSize < s.srcAt + s.srcCount then .rangeError
  else if s.cfg.bufSize < s.dstAt + s.frameCount then .rangeError
  else if s.cfg.maxFrame < 18 + s.srcCount then .bufferTooLarge
  else .ok

/-- The completion of a BUILD that writes its frame, whole or cut at `MAX_FRAME`. -/
def State.afterBuild (s : State) : State :=
  s.completed (s.mem.write s.dstAt (physicalFrame s.cfg s.buildFrame))
    (BitVec.ofNat 13 s.frameCount) (crcFn s.cfg s.source) s.prs s.buildCode
    (decide (s.buildCode = .bufferTooLarge))

/-- The length of the written frame depends on the parameters and the latch alone. -/
theorem State.frameCount_congr {s u : State} (hc : u.cfg = s.cfg) (hl : u.latch = s.latch) :
    u.frameCount = s.frameCount := by
  unfold State.frameCount State.srcCount
  rw [hc, hl]

/-- The checks of BUILD look at the parameters and the latch alone. -/
theorem State.buildCode_congr {s u : State} (hc : u.cfg = s.cfg) (hl : u.latch = s.latch) :
    u.buildCode = s.buildCode := by
  unfold State.buildCode State.srcAt State.srcCount State.dstAt
  rw [State.frameCount_congr hc hl, hc, hl]

section
variable {s : State}

theorem State.buildCode_of_source_beyond (h : s.cfg.bufSize < s.srcAt + s.srcCount) :
    s.buildCode = .rangeError :=
  if_pos h

theorem State.buildCode_of_output_beyond (h : s.cfg.bufSize < s.dstAt + s.frameCount) :
    s.buildCode = .rangeError := by
  rw [State.buildCode, if_pos h, ite_self]

theorem State.buildCode_of_in_range (hsrc : s.srcAt + s.srcCount ≤ s.cfg.bufSize)
    (hdst : s.dstAt + s.frameCount ≤ s.cfg.bufSize) :
    s.buildCode = if s.cfg.maxFrame < 18 + s.srcCount then .bufferTooLarge else .ok := by
  rw [State.buildCode, if_neg (Nat.not_lt.mpr hsrc), if_neg (Nat.not_lt.mpr hdst)]

end

/-- What the code of a BUILD says of its regions and of the frame's length. -/
theorem State.buildCode_cases (s : State) :
    s.buildCode = .rangeError ∨
    (s.dstAt + s.frameCount ≤ s.cfg.bufSize ∧ s.buildCode = .bufferTooLarge ∧
      s.cfg.maxFrame < 18 + s.srcCount) ∨
    (s.dstAt + s.frameCount ≤ s.cfg.bufSize ∧ s.buildCode = .ok ∧
      18 + s.srcCount ≤ s.cfg.maxFrame) := by
  unfold State.buildCode
  split
  · exact .inl rfl
  · split
    · exact .inl rfl
    · split
      · exact .inr (.inl ⟨by omega, rfl, ‹_›⟩)
      · exact .inr (.inr ⟨by omega, rfl, by omega⟩)

/-- BUILD in full: it writes the frame exactly when both regions lie in the buffer. -/
theorem execBuild_eq (s : State) : execBuild s =
    .next (if s.buildCode = .rangeError then s.failed .rangeError else s.afterBuild) := by
  unfold execBuild
  simp only [length_rawFrame, State.length_source]
  rw [← State.frameCount]
  split
  case isFalse hsrc =>
    rw [if_pos (State.buildCode_of_source_beyond
      (Nat.not_le.mp (mt s.sourceInRange_iff.mpr hsrc)))]
    rfl
  case isTrue hsrc =>
    have hsrc := s.sourceInRange_iff.mp hsrc
    split
    case isFalse hdst =>
      rw [if_pos (State.buildCode_of_output_beyond (Nat.not_le.mp (mt (inRange_iff ..).mpr hdst)))]
      rfl
    case isTrue hdst =>
      have hcode := State.buildCode_of_in_range hsrc ((inRange_iff ..).mp hdst)
      rw [State.afterBuild, hcode]
      split
      · rfl
      · rfl

theorem execBuild_of_rangeError {s : State} (h : s.buildCode = .rangeError) :
    execBuild s = .next (s.failed .rangeError) := by
  rw [execBuild_eq, if_pos h]

theorem execBuild_of_ne_rangeError {s : State} (h : s.buildCode ≠ .rangeError) :
    execBuild s = .next s.afterBuild := by
  rw [execBuild_eq, if_neg h]

/-- In a good configuration the clamp of 42_frame.md R195 is a maximum of a minimum. -/
theorem State.frameCount_eq {s : State} (hwf : s.cfg.wellFormed = true) :
    s.frameCount = max s.cfg.minFrame (min (18 + s.srcCount) s.cfg.maxFrame) := by
  obtain ⟨-, -, -, hle, -⟩ := Config.bounds hwf
  exact clampLength_eq hle _

/-- The length of a written frame fits `RES_LEN`. -/
theorem State.afterBuild_resLen_toNat {s : State} (hwf : s.cfg.wellFormed = true) :
    s.afterBuild.resLen.toNat = s.frameCount := by
  obtain ⟨-, -, -, hle, hmax, -, hbuf⟩ := Config.bounds hwf
  have hcount := State.frameCount_eq hwf
  exact BitVec.toNat_ofNat _ _ |>.trans (Nat.mod_eq_of_lt (by omega))

section
variable (s : State)

theorem State.length_physicalFrame_buildFrame :
    (physicalFrame s.cfg s.buildFrame).length = s.frameCount := by
  rw [length_physicalFrame, State.length_buildFrame, State.frameCount]

/-- The output is the unclamped frame, byte by byte, and 0 beyond it. -/
theorem State.readByte_afterBuild_output {i : Nat} (h : i < s.frameCount) :
    s.afterBuild.readByte (s.dstAt + i) = s.buildFrame.getD i 0 := by
  have hi : i < (physicalFrame s.cfg s.buildFrame).length := by
    rwa [State.length_physicalFrame_buildFrame]
  exact (s.readByte_memWrite_at s.dstAt _ i hi).trans (getElem_physicalFrame _ i hi)

theorem State.readByte_afterBuild_frame {i : Nat} (h : i < s.frameCount) :
    s.afterBuild.readByte (s.dstAt + i) = s.frameByteAt (crcFn s.cfg s.source) i :=
  (s.readByte_afterBuild_output h).trans (s.getD_rawFrame _ i)

theorem State.bufferSameOutside_afterBuild :
    BufferSameOutside s s.afterBuild s.dstAt s.frameCount := by
  intro a ha
  rw [← State.length_physicalFrame_buildFrame] at ha
  exact s.readByte_memWrite_other _ _ _ ha

end

/-- Settles O42: a region beyond the buffer fixes the code `RANGE_ERROR`; otherwise the completion is
`afterBuild`, whose code says whether the frame was cut. -/
theorem buildWritesTheClampedFrame : Obligations.BuildWritesTheClampedFrame := by
  unfold Obligations.BuildWritesTheClampedFrame
  rintro s c n hwf rfl rfl
  rw [← State.frameCount_eq hwf]
  refine ⟨fun hbeyond => ?_, fun hsrc hdst => ?_⟩
  · exact execBuild_of_rangeError
      (hbeyond.elim State.buildCode_of_source_beyond State.buildCode_of_output_beyond)
  · have hcode := State.buildCode_of_in_range hsrc hdst
    have hne : s.buildCode ≠ .rangeError := by
      rw [hcode]
      split <;> exact nofun
    refine ⟨s.afterBuild, execBuild_of_ne_rangeError hne, rfl, State.afterBuild_resLen_toNat hwf,
      fun hfits => ?_, fun hlong => ?_, fun _ => s.readByte_afterBuild_frame,
      s.bufferSameOutside_afterBuild⟩
    · rw [if_neg (Nat.not_lt.mpr hfits)] at hcode
      exact ⟨hcode, by simp [State.afterBuild, hcode]⟩
    · rw [if_pos hlong] at hcode
      exact ⟨hcode, by simp [State.afterBuild, hcode]⟩

/-- Settles O47: both states pass or fail the same checks; on success both write one
frame, since source, addresses and parameters agree. -/
theorem buildTouchesOnlyItsRegions : Obligations.BuildTouchesOnlyItsRegions := by
  unfold Obligations.BuildTouchesOnlyItsRegions
  intro s u hc hl hwf hsame
  have hcode : u.buildCode = s.buildCode := State.buildCode_congr hc hl
  have hcount : u.frameCount = s.frameCount := State.frameCount_congr hc hl
  have hdstAt : u.dstAt = s.dstAt := congrArg (·.dstPtr.toNat) hl
  have hsource : u.source = s.source := State.source_congr hl hsame
  have hframe : u.buildFrame = s.buildFrame := by
    rw [State.buildFrame, hc, hl, hsource, ← State.buildFrame]
  by_cases hrange : s.buildCode = .rangeError
  · exact ⟨s.failed .rangeError, u.failed .rangeError, execBuild_of_rangeError hrange,
      execBuild_of_rangeError (hcode.trans hrange), rfl, rfl, rfl, fun hne => absurd rfl hne,
      fun i hi => absurd hi (Nat.not_lt_zero i), fun _ _ => rfl⟩
  · have hlen := State.afterBuild_resLen_toNat hwf
    refine ⟨s.afterBuild, u.afterBuild, execBuild_of_ne_rangeError hrange,
      execBuild_of_ne_rangeError (hcode ▸ hrange), hcode,
      congrArg (fun code => decide (code = ResultCode.bufferTooLarge)) hcode,
      congrArg (BitVec.ofNat 13) hcount, fun _ => congrArg₂ crcFn hc hsource, ?_,
      hlen ▸ s.bufferSameOutside_afterBuild⟩
    intro i hi
    rw [hlen] at hi
    calc u.afterBuild.readByte (s.dstAt + i)
        = u.buildFrame.getD i 0 := hdstAt ▸ u.readByte_afterBuild_output (hcount ▸ hi)
      _ = s.buildFrame.getD i 0 := by rw [hframe]
      _ = s.afterBuild.readByte (s.dstAt + i) := (s.readByte_afterBuild_output hi).symm

end Sys2Proof.Machine
end

section
/-! PROOF. 42_frame.md R200-R206: PARSE case by case, the fields it splits off, the bytes it ignores and
what a failure leaves. -/

namespace Sys2Proof.Machine

/-- `D`, the declared length of the frame in the source region: `be16` of its bytes 12 and 13
(42_frame.md R200). -/
def State.declaredLength (s : State) : Nat :=
  (s.readByte (s.srcAt + 12)).toNat * 256 + (s.readByte (s.srcAt + 13)).toNat

/-- The code a PARSE ends with, its checks in the order of 42_frame.md R203. -/
def State.parseCode (s : State) : ResultCode :=
  if s.cfg.bufSize < s.srcAt + s.srcCount then .rangeError
  else if s.srcCount < 14 + s.declaredLength then .shortFrame
  else if s.declaredLength < 4 then .frameTooShort
  else .ok

/-- The fields of the frame in the source region, as `PRS_*` hold them (42_frame.md R200-R202). -/
def State.parsedFields (s : State) : ParseRegs :=
  { dstLo := unle32 (s.memRead s.srcAt 4), dstHi := (unle32 (s.memRead (s.srcAt + 4) 2)).setWidth 16,
    srcLo := unle32 (s.memRead (s.srcAt + 6) 4),
    srcHi := (unle32 (s.memRead (s.srcAt + 10) 2)).setWidth 16,
    len := BitVec.ofNat 16 s.declaredLength,
    payOff := BitVec.ofNat 13 (s.srcAt + 14),
    payLen := BitVec.ofNat 16 (s.declaredLength - 4),
    crc := cksValue s.cfg.crcOrder (s.memRead (s.srcAt + (14 + (s.declaredLength - 4))) 4) }

/-- The completion of a PARSE: `PRS_*` take the fields, or 0 when a check fails. -/
def State.afterParse (s : State) : State :=
  s.completed s.mem s.resLen s.crcValue (if s.parseCode = .ok then s.parsedFields else .zero)
    s.parseCode false

section
variable {s : State}

/-- PARSE reads the declared length only in a region that holds the two bytes of it. -/
theorem State.unbe16_slice_source (h : 14 ≤ s.srcCount) :
    unbe16 (slice s.source 12 14) = s.declaredLength := by
  rw [State.slice_source s h (by omega), State.unbe16_memRead, State.declaredLength]

theorem State.parsedRegs_source (h4 : 4 ≤ s.declaredLength)
    (hlen : 14 + s.declaredLength ≤ s.srcCount) :
    parsedRegs s.cfg.crcOrder s.srcAt s.source s.declaredLength = s.parsedFields := by
  rw [parsedRegs, State.slice_source s (a := 0) (b := 4) (by omega) (by omega),
    State.slice_source s (a := 4) (b := 6) (by omega) (by omega),
    State.slice_source s (a := 6) (b := 10) (by omega) (by omega),
    State.slice_source s (a := 10) (b := 12) (by omega) (by omega),
    State.slice_source s (by omega) (by omega),
    show 14 + s.declaredLength - (14 + (s.declaredLength - 4)) = 4 by omega]
  rfl

theorem State.parseCode_of_source_beyond (h : s.cfg.bufSize < s.srcAt + s.srcCount) :
    s.parseCode = .rangeError :=
  if_pos h

theorem State.parseCode_of_short (hsrc : s.srcAt + s.srcCount ≤ s.cfg.bufSize)
    (h : s.srcCount < 14 + s.declaredLength) : s.parseCode = .shortFrame := by
  rw [State.parseCode, if_neg (Nat.not_lt.mpr hsrc), if_pos h]

theorem State.parseCode_of_no_checksum (hsrc : s.srcAt + s.srcCount ≤ s.cfg.bufSize)
    (hlen : 14 + s.declaredLength ≤ s.srcCount) (h : s.declaredLength < 4) :
    s.parseCode = .frameTooShort := by
  rw [State.parseCode, if_neg (Nat.not_lt.mpr hsrc), if_neg (Nat.not_lt.mpr hlen), if_pos h]

theorem State.parseCode_of_whole (hsrc : s.srcAt + s.srcCount ≤ s.cfg.bufSize)
    (hlen : 14 + s.declaredLength ≤ s.srcCount) (h : 4 ≤ s.declaredLength) :
    s.parseCode = .ok := by
  rw [State.parseCode, if_neg (Nat.not_lt.mpr hsrc), if_neg (Nat.not_lt.mpr hlen),
    if_neg (Nat.not_lt.mpr h)]

theorem State.lengths_of_parseCode_ok (h : s.parseCode = .ok) :
    4 ≤ s.declaredLength ∧ 14 + s.declaredLength ≤ s.srcCount := by
  unfold State.parseCode at h
  split at h
  · cases h
  · split at h
    · cases h
    · split at h
      · cases h
      · omega

end

/-- PARSE in full: `afterParse` in every state. -/
theorem execParse_eq (s : State) : execParse s = .next s.afterParse := by
  unfold execParse
  simp only [State.length_source]
  split
  case isFalse hsrc =>
    rw [State.afterParse, State.parseCode_of_source_beyond
      (Nat.not_le.mp (mt s.sourceInRange_iff.mpr hsrc))]
    rfl
  case isTrue hsrc =>
    have hsrc := s.sourceInRange_iff.mp hsrc
    split
    case isTrue hheader =>
      rw [State.afterParse, State.parseCode_of_short hsrc (Nat.lt_add_right _ hheader)]
      rfl
    case isFalse hheader =>
      rw [State.unbe16_slice_source (Nat.not_lt.mp hheader)]
      split
      case isTrue hshort =>
        rw [State.afterParse, State.parseCode_of_short hsrc hshort]
        rfl
      case isFalse hshort =>
        have hlen := Nat.not_lt.mp hshort
        split
        case isTrue hcks =>
          rw [State.afterParse, State.parseCode_of_no_checksum hsrc hlen hcks]
          rfl
        case isFalse hcks =>
          have h4 := Nat.not_lt.mp hcks
          rw [State.afterParse, State.parseCode_of_whole hsrc hlen h4,
            State.parsedRegs_source h4 hlen]
          rfl

theorem execParse_of_parseCode_ok {s : State} (h : s.parseCode = .ok) : execParse s =
    .next (s.completed s.mem s.resLen s.crcValue s.parsedFields .ok false) := by
  rw [execParse_eq, State.afterParse, h, if_pos rfl]

theorem execParse_of_parseCode_ne_ok {s : State} {code : ResultCode} (h : s.parseCode = code)
    (hne : code ≠ .ok) : execParse s =
    .next (s.completed s.mem s.resLen s.crcValue .zero code false) := by
  rw [execParse_eq, State.afterParse, h, if_neg hne]

section
variable (s : State)

theorem State.declaredLength_lt : s.declaredLength < 2 ^ 16 := by
  have hhigh := (s.readByte (s.srcAt + 12)).isLt
  have hlow := (s.readByte (s.srcAt + 13)).isLt
  unfold State.declaredLength
  omega

theorem State.parsedFields_len_toNat :
    s.parsedFields.len.toNat = s.declaredLength :=
  BitVec.toNat_ofNat _ _ |>.trans (Nat.mod_eq_of_lt s.declaredLength_lt)

theorem State.parsedFields_payLen_toNat :
    s.parsedFields.payLen.toNat = s.declaredLength - 4 :=
  BitVec.toNat_ofNat _ _ |>.trans
    (Nat.mod_eq_of_lt (Nat.lt_of_le_of_lt (Nat.sub_le ..) s.declaredLength_lt))

theorem State.parsedFields_payOff_toNat :
    s.parsedFields.payOff.toNat = s.srcAt + 14 := by
  have hptr : s.srcAt < 2 ^ 12 := s.latch.srcPtr.isLt
  exact BitVec.toNat_ofNat _ _ |>.trans (Nat.mod_eq_of_lt (by omega))

end

/-- Settles O43: each clause fixes the code of PARSE's checks, and with it the completion; the fields
are read off `parsedFields`. -/
theorem parseSplitsTheFrame : Obligations.ParseSplitsTheFrame := by
  unfold Obligations.ParseSplitsTheFrame
  intro s b d hwf hb hd
  simp only [hb] at hd ⊢
  have hd : d = s.declaredLength := hd
  subst hd
  refine ⟨fun hsrc => ?_, fun hsrc hshort => ?_, fun hsrc hlen hcks => ?_, fun hsrc hlen h4 => ?_⟩
  · exact execParse_of_parseCode_ne_ok (State.parseCode_of_source_beyond hsrc) nofun
  · exact execParse_of_parseCode_ne_ok
      (State.parseCode_of_short hsrc (hshort.elim (Nat.lt_add_right _) id)) nofun
  · exact execParse_of_parseCode_ne_ok (State.parseCode_of_no_checksum hsrc hlen hcks) nofun
  · exact ⟨_, execParse_of_parseCode_ok (State.parseCode_of_whole hsrc hlen h4), rfl,
      fun _ => rfl, s.unle32_memRead_four _, s.unle32_memRead_two _, s.unle32_memRead_four _,
      s.unle32_memRead_two _, s.parsedFields_len_toNat, s.parsedFields_payOff_toNat,
      s.parsedFields_payLen_toNat, s.cksValue_memRead _⟩

/-- Two states that agree on the first `14 + D` bytes of the frame declare one length. -/
theorem State.declaredLength_congr {s u : State} (hl : u.latch = s.latch)
    (h : ∀ i, i < 14 + s.declaredLength → u.readByte (s.srcAt + i) = s.readByte (s.srcAt + i)) :
    u.declaredLength = s.declaredLength := by
  have hsrcAt : u.srcAt = s.srcAt := congrArg (·.srcPtr.toNat) hl
  rw [State.declaredLength, hsrcAt, h 12 (by omega), h 13 (by omega), ← State.declaredLength]

/-- A read that ends within the first `14 + D` bytes of the frame is the same in two states that agree
on these. -/
theorem State.memRead_congr_declared {s u : State}
    (h : ∀ i, i < 14 + s.declaredLength → u.readByte (s.srcAt + i) = s.readByte (s.srcAt + i))
    {k n : Nat} (hk : k + n ≤ 14 + s.declaredLength) :
    u.memRead (s.srcAt + k) n = s.memRead (s.srcAt + k) n :=
  State.memRead_congr fun i hi => by
    rw [Nat.add_assoc]
    exact h (k + i) (by omega)

theorem State.parsedFields_congr {s u : State} (hc : u.cfg = s.cfg) (hl : u.latch = s.latch)
    (h4 : 4 ≤ s.declaredLength)
    (h : ∀ i, i < 14 + s.declaredLength → u.readByte (s.srcAt + i) = s.readByte (s.srcAt + i)) :
    u.parsedFields = s.parsedFields := by
  have hsrcAt : u.srcAt = s.srcAt := congrArg (·.srcPtr.toNat) hl
  have hread {k n : Nat} (hk : k + n ≤ 14 + s.declaredLength) := State.memRead_congr_declared h hk
  rw [State.parsedFields, hsrcAt, State.declaredLength_congr hl h, hc,
    show u.memRead s.srcAt 4 = s.memRead s.srcAt 4 from hread (k := 0) (by omega),
    hread (by omega), hread (by omega), hread (by omega), hread (by omega), ← State.parsedFields]

/-- Settles O51: both states declare one length, so they pass or fail the same checks, and every field
lies in the declared region. -/
theorem parseIgnoresBytesAfterTheDeclaredRegion :
    Obligations.ParseIgnoresBytesAfterTheDeclaredRegion := by
  unfold Obligations.ParseIgnoresBytesAfterTheDeclaredRegion
  intro s u d hc hl hd hsame
  have hd : d = s.declaredLength := hd
  subst hd
  have hlen := State.declaredLength_congr hl hsame
  have hcode : u.parseCode = s.parseCode := by
    have hsrcAt : u.srcAt = s.srcAt := congrArg (·.srcPtr.toNat) hl
    have hsrcCount : u.srcCount = s.srcCount := congrArg (·.srcLen.toNat) hl
    rw [State.parseCode, hc, hsrcAt, hsrcCount, hlen, ← State.parseCode]
  by_cases hok : s.parseCode = .ok
  · obtain ⟨h4, -⟩ := State.lengths_of_parseCode_ok hok
    exact ⟨_, _, execParse_of_parseCode_ok hok, execParse_of_parseCode_ok (hcode.trans hok), rfl,
      State.parsedFields_congr hc hl h4 hsame⟩
  · exact ⟨_, _, execParse_of_parseCode_ne_ok rfl hok, execParse_of_parseCode_ne_ok hcode hok, rfl,
      rfl⟩

/-- With `PRS_*` all 0 the eight registers read 0 (10_state.md R46-R51). -/
theorem State.readReg_prs_of_zero {t : State} (h : t.prs = .zero) :
    ∀ r ∈ [Reg.prsDstLo, .prsDstHi, .prsSrcLo, .prsSrcHi, .prsLen, .prsPayOff, .prsPayLen, .prsCrc],
      t.readReg r = 0 := by
  simp [State.readReg, h, ParseRegs.zero]

/-- Settles O52: a code other than `OK` is a failed check, after which PARSE clears `PRS_*`. -/
theorem failingParseClearsTheParseRegisters : Obligations.FailingParseClearsTheParseRegisters := by
  unfold Obligations.FailingParseClearsTheParseRegisters
  intro s
  refine ⟨s.afterParse, execParse_eq s, fun hne => State.readReg_prs_of_zero ?_⟩
  exact if_neg hne

end Sys2Proof.Machine
end

section
/-! PROOF. 42_frame.md R207: BUILD, then PARSE of the frame, then VERIFY of the region PARSE found. -/

namespace Sys2Proof.Machine

/-! ### The two completions that write a frame -/

/-- A BUILD that completes `OK` wrote its whole frame, which ends inside the buffer. -/
theorem eq_afterBuild_of_code_ok {s t : State} (h : execBuild s = .next t) (hok : t.code = .ok) :
    t = s.afterBuild ∧ s.dstAt + s.frameCount ≤ s.cfg.bufSize ∧
      18 + s.srcCount ≤ s.cfg.maxFrame := by
  rcases s.buildCode_cases with hrange | ⟨-, hcode, -⟩ | ⟨hdst, hcode, hfits⟩
  · cases (execBuild_of_rangeError hrange).symm.trans h
    cases hok
  · cases (execBuild_of_ne_rangeError (hcode ▸ nofun)).symm.trans h
    cases hcode.symm.trans hok
  · cases (execBuild_of_ne_rangeError (hcode ▸ nofun)).symm.trans h
    exact ⟨rfl, hdst, hfits⟩

/-- A BUILD that sets `TRUNC` wrote the first `MAX_FRAME` bytes of a longer frame. -/
theorem eq_afterBuild_of_trunc {s t : State} (h : execBuild s = .next t) (ht : t.trunc = true) :
    t = s.afterBuild ∧ s.dstAt + s.frameCount ≤ s.cfg.bufSize ∧
      s.cfg.maxFrame < 18 + s.srcCount := by
  rcases s.buildCode_cases with hrange | ⟨hdst, hcode, hlong⟩ | ⟨-, hcode, -⟩
  · cases (execBuild_of_rangeError hrange).symm.trans h
    cases ht
  · cases (execBuild_of_ne_rangeError (hcode ▸ nofun)).symm.trans h
    exact ⟨rfl, hdst, hlong⟩
  · cases (execBuild_of_ne_rangeError (hcode ▸ nofun)).symm.trans h
    cases hcode.symm.trans (of_decide_eq_true ht)

/-! ### A state that holds the frame of a BUILD -/

/-- In state `t` the first `n` bytes of the frame that a BUILD in state `s` assembles stand at `a`. -/
structure State.HoldsFrame (s t : State) (a n : Nat) : Prop where
  cfg_eq : t.cfg = s.cfg
  byte_eq : ∀ i, i < n → t.readByte (a + i) = s.frameByteAt (crcFn s.cfg s.source) i

theorem State.holdsFrame_afterBuild (s : State) :
    s.HoldsFrame s.afterBuild s.dstAt s.frameCount :=
  ⟨rfl, fun _ => s.readByte_afterBuild_frame⟩

/-- The six bytes of the buffer at `a`, as an address. -/
def State.addrAt (s : State) (a : Nat) : Addr :=
  { b0 := s.readByte a, b1 := s.readByte (a + 1), b2 := s.readByte (a + 2),
    b3 := s.readByte (a + 3), b4 := s.readByte (a + 4), b5 := s.readByte (a + 5) }

/-- The address that the two registers hold which PARSE packs from the six bytes at `a` (42_frame.md
R201). -/
theorem State.ofRegs_memRead (s : State) (a : Nat) :
    Addr.ofRegs (unle32 (s.memRead a 4)) ((unle32 (s.memRead (a + 4) 2)).setWidth 16) =
      s.addrAt a :=
  Addr.ofRegs_eq (s.unle32_memRead_four a) (s.unle32_memRead_two (a + 4))

section
variable {s t : State} {a n : Nat} (h : s.HoldsFrame t a n)
include h

theorem State.HoldsFrame.addrAt_dst (hn : 12 ≤ n) : t.addrAt a = s.latch.cfgDst := by
  have hbyte (i : Nat) (hi : i < 6) := h.byte_eq i (by omega)
  rw [State.addrAt, hbyte 1 (by omega), hbyte 2 (by omega), hbyte 3 (by omega),
    hbyte 4 (by omega), hbyte 5 (by omega), show t.readByte a = _ from hbyte 0 (by omega)]
  rfl

theorem State.HoldsFrame.addrAt_src (hn : 12 ≤ n) : t.addrAt (a + 6) = s.latch.cfgSrc := by
  have hbyte (i : Nat) (hi : i < 12) := h.byte_eq i (by omega)
  rw [State.addrAt, Nat.add_assoc, Nat.add_assoc, Nat.add_assoc, Nat.add_assoc, Nat.add_assoc,
    hbyte 6 (by omega), hbyte 7 (by omega), hbyte 8 (by omega), hbyte 9 (by omega),
    hbyte 10 (by omega), hbyte 11 (by omega)]
  rfl

/-- The declared length of the frame is `n + 4`, also where the frame was cut (42_frame.md R197). -/
theorem State.HoldsFrame.declaredLength_eq (ha : t.srcAt = a) (hn : 14 ≤ n) :
    t.declaredLength = s.srcCount + 4 := by
  have hwidth : s.srcCount < 2 ^ 13 := s.latch.srcLen.isLt
  have hhigh : s.frameByteAt (crcFn s.cfg s.source) 12 = BitVec.ofNat 8 ((s.srcCount + 4) / 256) :=
    rfl
  have hlow : s.frameByteAt (crcFn s.cfg s.source) 13 = BitVec.ofNat 8 ((s.srcCount + 4) % 256) :=
    rfl
  rw [State.declaredLength, ha, h.byte_eq 12 (by omega), h.byte_eq 13 (by omega), hhigh, hlow,
    BitVec.toNat_ofNat, BitVec.toNat_ofNat]
  omega

theorem State.HoldsFrame.memRead_payload (hn : 14 + s.srcCount ≤ n) :
    t.memRead (a + 14) s.srcCount = s.source :=
  State.memRead_congr fun i hi => by
    rw [Nat.add_assoc, h.byte_eq (14 + i) (by omega), State.frameByteAt, if_neg (by omega),
      if_neg (by omega), if_neg (by omega), if_pos (by omega), Nat.add_sub_cancel_left]

theorem State.HoldsFrame.storedChecksum_eq (hn : 18 + s.srcCount ≤ n) :
    t.storedChecksum (a + (14 + s.srcCount)) = (crcFn s.cfg s.source).toNat :=
  State.storedChecksum_of_frame h.cfg_eq fun j hj => by
    rw [Nat.add_assoc]
    exact h.byte_eq (14 + s.srcCount + j) (by omega)

end

/-! ### PARSE and VERIFY of the frame -/

section
variable {s t : State} {n : Nat} (h : s.HoldsFrame t t.srcAt n)
include h

theorem State.HoldsFrame.parseCode_eq_ok (hn : 18 + s.srcCount ≤ n) (hlen : n ≤ t.srcCount)
    (hsrc : t.srcAt + t.srcCount ≤ t.cfg.bufSize) : t.parseCode = .ok := by
  have hdecl := h.declaredLength_eq rfl (by omega)
  exact State.parseCode_of_whole hsrc (by omega) (by omega)

/-- A region too short for the declared length, as after a truncating BUILD. -/
theorem State.HoldsFrame.parseCode_eq_shortFrame (hn : 14 ≤ n)
    (hlen : t.srcCount < 18 + s.srcCount) (hsrc : t.srcAt + t.srcCount ≤ t.cfg.bufSize) :
    t.parseCode = .shortFrame := by
  have hdecl := h.declaredLength_eq rfl hn
  exact State.parseCode_of_short hsrc (by omega)

theorem State.HoldsFrame.parsedFields_crc (hn : 18 + s.srcCount ≤ n) :
    t.parsedFields.crc = crcFn s.cfg s.source := by
  apply BitVec.eq_of_toNat_eq
  rw [State.parsedFields, State.cksValue_memRead, h.declaredLength_eq rfl (by omega),
    Nat.add_sub_cancel, h.storedChecksum_eq hn]

end

/-- VERIFY of the payload and checksum of a frame in the buffer passes. -/
theorem State.HoldsFrame.execVerify_eq {s t : State} {a n : Nat} (h : s.HoldsFrame t a n)
    (hn : 18 + s.srcCount ≤ n) (hat : t.srcAt = a + 14) (hcount : t.srcCount = s.srcCount + 4)
    (hin : a + n ≤ t.cfg.bufSize) : execVerify t =
    .next (t.completed t.mem t.resLen (crcFn s.cfg s.source) t.prs .ok false) := by
  have hbody : t.recomputedChecksum = crcFn s.cfg s.source := by
    rw [State.recomputedChecksum, hat, hcount, Nat.add_sub_cancel, h.memRead_payload (by omega),
      h.cfg_eq]
  have hstored : t.recomputedChecksum.toNat = t.storedChecksum (t.srcAt + (t.srcCount - 4)) := by
    rw [hbody, hat, hcount, Nat.add_sub_cancel, Nat.add_assoc, h.storedChecksum_eq hn]
  rw [execVerify_of_checksum_eq (by omega) (by omega) hstored, hbody]

/-- The state in which the next command's source region is the one that `PRS_PAY_OFF` and `PRS_LEN`
name (42_frame.md R207). -/
def State.sourceIsParsed (s : State) : State :=
  { s with latch := { s.latch with srcPtr := s.prs.payOff.setWidth 12,
                                   srcLen := s.prs.len.setWidth 13 } }

theorem State.sourceIsParsed_srcAt {s : State} (h : s.prs.payOff.toNat < 2 ^ 12) :
    s.sourceIsParsed.srcAt = s.prs.payOff.toNat :=
  (BitVec.toNat_setWidth ..).trans (Nat.mod_eq_of_lt h)

theorem State.sourceIsParsed_srcCount {s : State} (h : s.prs.len.toNat < 2 ^ 13) :
    s.sourceIsParsed.srcCount = s.prs.len.toNat :=
  (BitVec.toNat_setWidth ..).trans (Nat.mod_eq_of_lt h)

/-! ### The round trip -/

/-- The completion of a PARSE of the frame that a BUILD in state `s` wrote whole. -/
def State.afterBuildThenParse (s : State) : State :=
  let t := s.afterBuild.sourceIsOutput
  t.completed t.mem t.resLen t.crcValue t.parsedFields .ok false

theorem State.holdsFrame_sourceIsOutput_afterBuild (s : State) :
    s.HoldsFrame s.afterBuild.sourceIsOutput s.afterBuild.sourceIsOutput.srcAt s.frameCount :=
  ⟨rfl, fun _ => s.readByte_afterBuild_frame⟩

theorem State.holdsFrame_afterBuildThenParse (s : State) :
    s.HoldsFrame s.afterBuildThenParse.sourceIsParsed s.dstAt s.frameCount :=
  ⟨rfl, fun _ => s.readByte_afterBuild_frame⟩

section
variable {s : State} (hwf : s.cfg.wellFormed = true)
include hwf

theorem State.sourceIsOutput_afterBuild_srcCount :
    s.afterBuild.sourceIsOutput.srcCount = s.frameCount :=
  State.afterBuild_resLen_toNat hwf

/-- A frame of at most `MAX_FRAME` bytes is written whole. -/
theorem State.le_frameCount (hfits : 18 + s.srcCount ≤ s.cfg.maxFrame) :
    18 + s.srcCount ≤ s.frameCount := by
  have hcount := State.frameCount_eq hwf
  omega

theorem State.frameCount_of_truncated (hlong : s.cfg.maxFrame < 18 + s.srcCount) :
    s.frameCount = s.cfg.maxFrame := by
  obtain ⟨-, -, -, hle, -⟩ := Config.bounds hwf
  have hcount := State.frameCount_eq hwf
  omega

theorem execParse_sourceIsOutput_afterBuild_of_truncated
    (hdst : s.dstAt + s.frameCount ≤ s.cfg.bufSize) (hlong : s.cfg.maxFrame < 18 + s.srcCount) :
    execParse s.afterBuild.sourceIsOutput = .next (s.afterBuild.sourceIsOutput.completed
      s.afterBuild.mem s.afterBuild.resLen s.afterBuild.crcValue .zero .shortFrame false) := by
  obtain ⟨-, -, hmin, hle, -⟩ := Config.bounds hwf
  have hcount := State.frameCount_of_truncated hwf hlong
  have hlen := State.sourceIsOutput_afterBuild_srcCount hwf
  have hframe := s.holdsFrame_sourceIsOutput_afterBuild
  exact execParse_of_parseCode_ne_ok
    (hframe.parseCode_eq_shortFrame (by omega) (by omega) (hlen ▸ hdst)) nofun

theorem execParse_sourceIsOutput_afterBuild (hdst : s.dstAt + s.frameCount ≤ s.cfg.bufSize)
    (hfits : 18 + s.srcCount ≤ s.cfg.maxFrame) :
    execParse s.afterBuild.sourceIsOutput = .next s.afterBuildThenParse := by
  have hlen := State.sourceIsOutput_afterBuild_srcCount hwf
  have hframe := s.holdsFrame_sourceIsOutput_afterBuild
  exact execParse_of_parseCode_ok
    (hframe.parseCode_eq_ok (State.le_frameCount hwf hfits) hlen.ge (hlen ▸ hdst))

/-- The fields that PARSE splits off are those BUILD put together. -/
theorem State.afterBuildThenParse_prs (hfits : 18 + s.srcCount ≤ s.cfg.maxFrame) :
    Addr.ofRegs s.afterBuildThenParse.prs.dstLo s.afterBuildThenParse.prs.dstHi = s.latch.cfgDst ∧
    Addr.ofRegs s.afterBuildThenParse.prs.srcLo s.afterBuildThenParse.prs.srcHi = s.latch.cfgSrc ∧
    s.afterBuildThenParse.prs.len.toNat = s.srcCount + 4 ∧
    s.afterBuildThenParse.prs.payOff.toNat = s.dstAt + 14 ∧
    s.afterBuildThenParse.prs.payLen.toNat = s.srcCount ∧
    s.afterBuildThenParse.prs.crc = crcFn s.cfg s.source := by
  have hn := State.le_frameCount hwf hfits
  have hframe := s.holdsFrame_sourceIsOutput_afterBuild
  have hdecl := hframe.declaredLength_eq rfl (by omega)
  refine ⟨(State.ofRegs_memRead _ _).trans (hframe.addrAt_dst (by omega)),
    (State.ofRegs_memRead _ _).trans (hframe.addrAt_src (by omega)),
    (State.parsedFields_len_toNat _).trans hdecl, State.parsedFields_payOff_toNat _,
    (State.parsedFields_payLen_toNat _).trans ?_, hframe.parsedFields_crc hn⟩
  rw [hdecl, Nat.add_sub_cancel]

theorem execVerify_sourceIsParsed_afterBuildThenParse
    (hdst : s.dstAt + s.frameCount ≤ s.cfg.bufSize) (hfits : 18 + s.srcCount ≤ s.cfg.maxFrame) :
    ∃ v : State, execVerify s.afterBuildThenParse.sourceIsParsed = .next v ∧ v.code = .ok ∧
      v.crcValue = crcFn s.cfg s.source := by
  obtain ⟨-, -, -, -, -, -, hbuf⟩ := Config.bounds hwf
  obtain ⟨-, -, hlen, hoff, -⟩ := State.afterBuildThenParse_prs hwf hfits
  have hn := State.le_frameCount hwf hfits
  exact ⟨_, s.holdsFrame_afterBuildThenParse.execVerify_eq hn
    ((State.sourceIsParsed_srcAt (by omega)).trans hoff)
    ((State.sourceIsParsed_srcCount (by omega)).trans hlen) hdst, rfl, rfl⟩

end

/-- Settles O49: an `OK` BUILD left the whole frame at the destination, which PARSE and VERIFY read
back; a truncating one left fewer bytes there than the frame declares. -/
theorem buildThenParseThenVerifyRoundTrips : Obligations.BuildThenParseThenVerifyRoundTrips := by
  unfold Obligations.BuildThenParseThenVerifyRoundTrips
  intro s t hwf hbuild
  constructor
  · intro hok
    obtain ⟨rfl, hdst, hfits⟩ := eq_afterBuild_of_code_ok hbuild hok
    obtain ⟨hdstAddr, hsrcAddr, hlen, hoff, hpay, hcrc⟩ := State.afterBuildThenParse_prs hwf hfits
    obtain ⟨v, hverify, hcode, hvalue⟩ :=
      execVerify_sourceIsParsed_afterBuildThenParse hwf hdst hfits
    exact ⟨s.afterBuildThenParse, v, execParse_sourceIsOutput_afterBuild hwf hdst hfits, rfl,
      hdstAddr, hsrcAddr, hlen, hoff, hpay, hcrc, hverify, hcode, hvalue⟩
  · intro htrunc
    obtain ⟨rfl, hdst, hlong⟩ := eq_afterBuild_of_trunc hbuild htrunc
    rw [← State.frameCount_of_truncated hwf hlong]
    exact ⟨_, execParse_sourceIsOutput_afterBuild_of_truncated hwf hdst hlong, rfl⟩

end Sys2Proof.Machine
end

section
/-! PROOF. 60_exceptions.md R231: the engine's turn with a command in flight, and how it ends when the
latched word is not legal. -/

namespace Sys2Proof.Machine

/-- With a command in flight and `rst_n` high, the engine's turn is the completion step. -/
theorem engineTurn_busy {s : State} (hbusy : s.phase = .busy) (hrst : s.rstN = true) :
    engineTurn s = engineStep s := by
  rcases engineTurn_cases s with ⟨-, -, hturn⟩ | ⟨hidle | hlow, -⟩
  · exact hturn
  · exact nomatch hbusy.symm.trans hidle
  · exact nomatch hrst.symm.trans hlow

/-- In a good configuration the engine at the head of the schedule takes its turn. -/
theorem step_of_sched_engine {s : State} {l : List Turn} (hwf : s.cfg.wellFormed = true)
    (hsched : s.sched = .engine :: l) : step s = engineTurn { s with sched := l } := by
  rw [step, if_pos hwf, hsched]

/-- Settles O37: the engine's turn is the completion step, which ends a rejected word by
`completeIllegal`. -/
theorem illegalWordCompletesWithIllegalCmd : Obligations.IllegalWordCompletesWithIllegalCmd := by
  unfold Obligations.IllegalWordCompletesWithIllegalCmd
  intro s l e hwf hbusy hrst hreject hsched
  calc step s
    _ = engineTurn { s with sched := l } := step_of_sched_engine hwf hsched
    _ = engineStep { s with sched := l } := engineTurn_busy hbusy hrst
    _ = completeIllegal { s with sched := l } := engineStep_of_decode_error hreject

end Sys2Proof.Machine
end

section
/-! PROOF. 70_reset_and_hazards.md R261: with `LOCK` set, every turn but a reset keeps `LOCK` and the
configuration registers. -/

namespace Sys2Proof.Machine

/-- State `t` is locked, and its `CFG_*` registers hold what they hold in `s`. -/
def State.KeepsLockedConfig (s t : State) : Prop :=
  t.lock = true ∧ t.cfgDstLo = s.cfgDstLo ∧ t.cfgDstHi = s.cfgDstHi ∧
    t.cfgSrcLo = s.cfgSrcLo ∧ t.cfgSrcHi = s.cfgSrcHi

section
variable {s : State} (hlock : s.lock = true)
include hlock

/-- `LOCK` shuts the `CFG_*` registers, a write to `CTRL` only sets it, and no other register write
touches them (10_state.md R25, R44). -/
theorem State.keepsLockedConfig_writeReg (r : Reg) (w : Word) :
    s.KeepsLockedConfig (s.writeReg r w) := by
  cases r
  case cfgDstLo | cfgDstHi | cfgSrcLo | cfgSrcHi =>
    rw [s.writeReg_cfg_of_locked hlock w (by decide)]
    exact ⟨hlock, rfl, rfl, rfl, rfl⟩
  case ctrl => exact ⟨by simp [State.writeReg, State.writeCtrl, hlock], rfl, rfl, rfl, rfl⟩
  case cmd =>
    simp only [State.writeReg, State.writeCmd]
    split
    · exact ⟨hlock, rfl, rfl, rfl, rfl⟩
    · exact ⟨hlock, rfl, rfl, rfl, rfl⟩
  all_goals exact ⟨hlock, rfl, rfl, rfl, rfl⟩

theorem State.keepsLockedConfig_busStep (a : Access) : s.KeepsLockedConfig (s.busStep a) := by
  rcases s.busStep_cases a with ⟨-, h | h⟩ | ⟨-, ⟨v, -, h⟩ | ⟨off, w, strb, r, -, -, h⟩ |
    ⟨off, w, strb, -, -, -, h⟩ | ⟨off, w, strb, -, -, -, h⟩ | ⟨off, -, -, -, h⟩ |
    ⟨off, w, strb, -, -, -, h⟩⟩ <;> rw [h]
  · exact ⟨hlock, rfl, rfl, rfl, rfl⟩
  · exact ⟨hlock, rfl, rfl, rfl, rfl⟩
  · exact ⟨hlock, rfl, rfl, rfl, rfl⟩
  · exact State.keepsLockedConfig_writeReg hlock r w
  · exact ⟨hlock, rfl, rfl, rfl, rfl⟩
  · rw [s.writeWindow_eq]
    exact ⟨hlock, rfl, rfl, rfl, rfl⟩
  · exact ⟨hlock, rfl, rfl, rfl, rfl⟩
  · exact ⟨hlock, rfl, rfl, rfl, rfl⟩

theorem keepsLockedConfig_of_step {t : State} (hstep : step s = .next t) (hreset : ¬ s.ResetNext) :
    s.KeepsLockedConfig t := by
  obtain ⟨-, ⟨-, -, -, hengine⟩ | ⟨-, -, rfl⟩ | ⟨a, l, -, rfl⟩ | ⟨level, l, hsched, rfl⟩⟩ :=
    step_cases hstep
  · obtain ⟨m, r, c, p, code, trunc, rfl⟩ := completed_of_engineStep hengine
    exact ⟨hlock, rfl, rfl, rfl, rfl⟩
  · exact ⟨hlock, rfl, rfl, rfl, rfl⟩
  · exact State.keepsLockedConfig_busStep (s := s.popTurn) hlock a
  · cases level
    case false => exact absurd ⟨l, hsched⟩ hreset
    case true => exact ⟨hlock, rfl, rfl, rfl, rfl⟩

end

/-- A step that drives `rst_n` low is the reset. -/
theorem eq_enterReset_of_step {s t : State} (hstep : step s = .next t) (hreset : s.ResetNext) :
    t = s.popTurn.enterReset := by
  obtain ⟨l, hsched⟩ := hreset
  rw [step, hsched] at hstep
  split at hstep
  · cases hstep
    rw [State.popTurn, hsched]
    rfl
  · cases hstep

/-- Settles O11: without a reset, `step_cases` leaves a completion, a transaction, the release of
`rst_n` and a turn passed, each of which keeps the configuration; a reset is `State.enterReset`. -/
theorem onlyResetUnlocksTheConfiguration : Obligations.OnlyResetUnlocksTheConfiguration := by
  unfold Obligations.OnlyResetUnlocksTheConfiguration
  intro s t hstep hlock
  refine ⟨keepsLockedConfig_of_step hlock hstep, fun hreset => ?_⟩
  obtain rfl := eq_enterReset_of_step hstep hreset
  exact ⟨rfl, rfl, rfl, rfl, rfl⟩

end Sys2Proof.Machine
end

section
/-! PROOF. 70_reset_and_hazards.md R269: no completion reads or writes the operand and configuration
registers, so a host write to one commutes with it. -/

namespace Sys2Proof.Machine

/-- State `s` with the operand registers, the `CFG_*` registers and the `LOCK` that guards them taken
from `u`. -/
def State.withOperandsOf (s u : State) : State :=
  { s with lock := u.lock, srcPtr := u.srcPtr, srcLen := u.srcLen, dstPtr := u.dstPtr,
           dstCap := u.dstCap, cfgDstLo := u.cfgDstLo, cfgDstHi := u.cfgDstHi,
           cfgSrcLo := u.cfgSrcLo, cfgSrcHi := u.cfgSrcHi }

/-- Whatever these fields hold, a command completes alike and leaves them alone: its checks and its
results look at the latch, the buffer and the parameters. -/
theorem exec_withOperandsOf (i : Instr) (s u : State) : ∃ t,
    exec i s = .next t ∧ exec i (s.withOperandsOf u) = .next (t.withOperandsOf u) := by
  have hsource := Nat.lt_or_ge s.cfg.bufSize (s.srcAt + s.srcCount)
  cases i
  case pad =>
    by_cases hok : s.padCode = .ok
    · exact ⟨_, execPad_of_padCode_ok hok,
        execPad_of_padCode_ok (s := s.withOperandsOf u) hok⟩
    · exact ⟨_, execPad_of_padCode_ne_ok rfl hok,
        execPad_of_padCode_ne_ok (s := s.withOperandsOf u) rfl hok⟩
  case unpad =>
    rcases hsource with hbeyond | hsrc
    · exact ⟨_, execUnpad_of_source_beyond hbeyond,
        execUnpad_of_source_beyond (s := s.withOperandsOf u) hbeyond⟩
    · by_cases hbad : s.BadPad
      · exact ⟨_, execUnpad_of_badPad hsrc hbad,
          execUnpad_of_badPad (s := s.withOperandsOf u) hsrc hbad⟩
      · exact ⟨_, execUnpad_of_not_badPad hsrc hbad,
          execUnpad_of_not_badPad (s := s.withOperandsOf u) hsrc hbad⟩
  case crc =>
    rcases hsource with hbeyond | hsrc
    · exact ⟨_, execCrc_of_source_beyond hbeyond,
        execCrc_of_source_beyond (s := s.withOperandsOf u) hbeyond⟩
    · exact ⟨_, execCrc_of_source_in_range hsrc,
        execCrc_of_source_in_range (s := s.withOperandsOf u) hsrc⟩
  case verify =>
    rcases hsource with hbeyond | hsrc
    · exact ⟨_, execVerify_of_source_beyond hbeyond,
        execVerify_of_source_beyond (s := s.withOperandsOf u) hbeyond⟩
    · rcases Nat.lt_or_ge s.srcCount 4 with hshort | hlong
      · exact ⟨_, execVerify_of_source_short hsrc hshort,
          execVerify_of_source_short (s := s.withOperandsOf u) hsrc hshort⟩
      · exact ⟨_, execVerify_of_source_long hsrc hlong,
          execVerify_of_source_long (s := s.withOperandsOf u) hsrc hlong⟩
  case build =>
    by_cases hrange : s.buildCode = .rangeError
    · exact ⟨_, execBuild_of_rangeError hrange,
        execBuild_of_rangeError (s := s.withOperandsOf u) hrange⟩
    · exact ⟨_, execBuild_of_ne_rangeError hrange,
        execBuild_of_ne_rangeError (s := s.withOperandsOf u) hrange⟩
  case parse => exact ⟨_, execParse_eq s, execParse_eq (s.withOperandsOf u)⟩

theorem withOperandsOf_of_exec {i : Instr} {s t : State} (h : exec i s = .next t) :
    t.withOperandsOf s = t := by
  obtain ⟨m, r, c, p, code, trunc, hcompleted⟩ := exec_completed i s
  cases hcompleted.symm.trans h
  rfl

/-- What a write to an operand or `CFG_*` register stores depends on these fields alone, and it changes
no other field (10_state.md R36-R39, R44). -/
theorem State.writeReg_withOperandsOf (s t : State) (w : Word) {r : Reg}
    (hr : r ∈ [Reg.srcPtr, .srcLen, .dstPtr, .dstCap, .cfgDstLo, .cfgDstHi, .cfgSrcLo, .cfgSrcHi]) :
    (t.withOperandsOf s).writeReg r w = t.withOperandsOf (s.writeReg r w) := by
  simp only [List.mem_cons, List.not_mem_nil, or_false] at hr
  rcases hr with rfl | rfl | rfl | rfl | hcfg
  · rfl
  · rfl
  · rfl
  · rfl
  · rcases hcfg with rfl | rfl | rfl | rfl
    all_goals
      simp only [State.writeReg]
      rw [apply_ite t.withOperandsOf]
      rfl

/-- Settles O19: the write reaches nothing that the completion reads, and the completion changes
nothing that the write depends on. -/
theorem operandWritesDoNotReachTheRunningCommand :
    Obligations.OperandWritesDoNotReachTheRunningCommand := by
  unfold Obligations.OperandWritesDoNotReachTheRunningCommand
  intro s t i w r hr hexec
  obtain ⟨t', hs, hwritten⟩ := exec_withOperandsOf i s (s.writeReg r w)
  cases hs.symm.trans hexec
  calc exec i (s.writeReg r w)
    _ = exec i (s.withOperandsOf (s.writeReg r w)) :=
      congrArg (exec i) (s.writeReg_withOperandsOf s w hr)
    _ = .next (t.withOperandsOf (s.writeReg r w)) := hwritten
    _ = .next ((t.withOperandsOf s).writeReg r w) := by rw [s.writeReg_withOperandsOf t w hr]
    _ = .next (t.writeReg r w) := by rw [withOperandsOf_of_exec hexec]

end Sys2Proof.Machine
end

section
/-! PROOF. 30_encoding.md R101, R102: the decoder and the encoder agree. -/

namespace Sys2Proof

theorem eq_encode_of_decode {w : Word} {i : Instr} (h : decode w = .ok i) : w = encode i := by
  obtain ⟨hrsv, hop⟩ := fields_of_decode h
  rw [← rsvField_append_opField w, hrsv, hop, encode]

/-- Settles O2: a word is its two fields; an accepted one has `RSV` 0 and its command's opcode. -/
theorem decodeAndEncodeAgree : Obligations.DecodeAndEncodeAgree := by
  unfold Obligations.DecodeAndEncodeAgree
  exact fun i w _ => ⟨decode_encode i, eq_encode_of_decode⟩

end Sys2Proof
end

section
/-! PROOF. The invariant `State.Inv`: it holds at reset (10_state.md R61), and each agent's turn
keeps it. -/

namespace Sys2Proof.Machine

/-- A state at its reset values meets the invariant, whatever the parameters, the level of `rst_n`
and the pending turns (10_state.md R61). -/
theorem State.Inv.of_reset_values {c : Config} (hwf : c.wellFormed = true) (level : Bool)
    (epoch : Nat) (sched : List Turn) :
    State.Inv { State.reset with cfg := c, rstN := level, epoch := epoch, sched := sched } where
  cfgOk := hwf
  memRising := .nil
  memInBuffer := nofun
  busyNotDone := nofun
  busyCmd := nofun
  truncCode := nofun
  resLenFits := Nat.zero_le _
  prsCoherent := .inl rfl
  heldInReset := by
    rintro rfl
    rfl

/-- Settles O8: every field of `State.reset` holds its reset value. -/
theorem resetStateMeetsTheInvariant : Obligations.ResetStateMeetsTheInvariant := by
  unfold Obligations.ResetStateMeetsTheInvariant
  exact .of_reset_values (by decide) true 0 []

section
variable {s : State} (hi : s.Inv)
include hi

theorem State.Inv.popTurn : s.popTurn.Inv where
  cfgOk := hi.cfgOk
  memRising := hi.memRising
  memInBuffer := hi.memInBuffer
  busyNotDone := hi.busyNotDone
  busyCmd := hi.busyCmd
  truncCode := hi.truncCode
  resLenFits := hi.resLenFits
  prsCoherent := hi.prsCoherent
  heldInReset hr := by
    have hheld : s.popTurn = { s with sched := s.sched.tail } := rfl
    rw [hheld, hi.heldInReset hr]

theorem State.Inv.driveRstN (level : Bool) : (s.driveRstN level).Inv := by
  cases level
  case false => exact .of_reset_values hi.cfgOk false (s.epoch + 1) s.sched
  case true =>
    exact ⟨hi.cfgOk, hi.memRising, hi.memInBuffer, hi.busyNotDone, hi.busyCmd, hi.truncCode,
      hi.resLenFits, hi.prsCoherent, heldInReset_of_released rfl⟩

variable (hr : s.rstN = true)
include hr

/-- A completion that writes neither the buffer nor `PRS_*` and leaves TRUNC clear keeps the
invariant, when the length it publishes fits the buffer. -/
theorem State.Inv.completed_same {r : BitVec 13} (hlen : r.toNat ≤ s.cfg.bufSize) (c : Word)
    (code : ResultCode) : (s.completed s.mem r c s.prs code false).Inv :=
  hi.completed hr hi.memRising hi.memInBuffer nofun hlen hi.prsCoherent

/-- A completion that writes `bs` inside the buffer and leaves `PRS_*` alone keeps the invariant. -/
theorem State.Inv.completed_write {a : Nat} {bs : List Byte} {n : Nat} {c : Word}
    {code : ResultCode} {trunc : Bool} (hbs : bs.length = n) (hin : a + n ≤ s.cfg.bufSize)
    (htrunc : trunc = true → code = .bufferTooLarge ∧ n = s.cfg.maxFrame) :
    (s.completed (s.mem.write a bs) (BitVec.ofNat 13 n) c s.prs code trunc).Inv := by
  obtain ⟨-, -, -, -, -, -, hbuf⟩ := Config.bounds hi.cfgOk
  have hn : (BitVec.ofNat 13 n).toNat = n :=
    BitVec.toNat_ofNat _ _ |>.trans (Nat.mod_eq_of_lt (by omega))
  refine hi.completed hr (Memory.write_wf hi.memRising _ _) (fun x hx => ?_) ?_ ?_ hi.prsCoherent
  · rcases Memory.mem_write hx with ⟨-, hlt⟩ | hold
    · omega
    · exact hi.memInBuffer x hold
  · rwa [hn]
  · omega

theorem State.Inv.failed (code : ResultCode) : (s.failed code).Inv :=
  hi.completed_same hr (Nat.zero_le _) s.crcValue code

theorem State.Inv.execPad {t : State} (h : execPad s = .next t) : t.Inv := by
  by_cases hok : s.padCode = .ok
  · cases (execPad_of_padCode_ok hok).symm.trans h
    obtain ⟨-, -, hdst⟩ := State.padCode_eq_ok_iff.mp hok
    exact hi.completed_write hr s.length_padded_source hdst nofun
  · cases (execPad_of_padCode_ne_ok rfl hok).symm.trans h
    exact hi.failed hr _

theorem State.Inv.execUnpad {t : State} (h : execUnpad s = .next t) : t.Inv := by
  rcases execUnpad_cases s with hrange | hpad | ⟨n, hsrc, hn, hok⟩
  · cases hrange.symm.trans h
    exact hi.failed hr _
  · cases hpad.symm.trans h
    exact hi.failed hr _
  · cases hok.symm.trans h
    have hle : n ≤ s.srcCount := s.length_source ▸ unpadLength_le hn
    have hres : (BitVec.ofNat 13 n).toNat ≤ n := BitVec.toNat_ofNat _ _ ▸ Nat.mod_le _ _
    exact hi.completed_same hr (by omega) _ _

theorem State.Inv.execCrc {t : State} (h : execCrc s = .next t) : t.Inv := by
  rcases execCrc_cases s with hrange | ⟨-, hok⟩
  · cases hrange.symm.trans h
    exact hi.completed_same hr hi.resLenFits _ _
  · cases hok.symm.trans h
    exact hi.completed_same hr hi.resLenFits _ _

theorem State.Inv.execVerify {t : State} (h : execVerify s = .next t) : t.Inv := by
  rcases execVerify_cases s with hrange | hshort | ⟨-, -, code, -, hlong⟩
  · cases hrange.symm.trans h
    exact hi.completed_same hr hi.resLenFits _ _
  · cases hshort.symm.trans h
    exact hi.completed_same hr hi.resLenFits _ _
  · cases hlong.symm.trans h
    exact hi.completed_same hr hi.resLenFits _ _

theorem State.Inv.afterBuild (hdst : s.dstAt + s.frameCount ≤ s.cfg.bufSize)
    (htrunc : s.buildCode = .bufferTooLarge → s.frameCount = s.cfg.maxFrame) : s.afterBuild.Inv :=
  hi.completed_write hr s.length_physicalFrame_buildFrame hdst fun hcut =>
    have hcode := of_decide_eq_true hcut
    ⟨hcode, htrunc hcode⟩

theorem State.Inv.execBuild {t : State} (h : execBuild s = .next t) : t.Inv := by
  rcases s.buildCode_cases with hrange | ⟨hdst, hcode, hlong⟩ | ⟨hdst, hcode, -⟩
  · cases (execBuild_of_rangeError hrange).symm.trans h
    exact hi.failed hr _
  · cases (execBuild_of_ne_rangeError (hcode ▸ nofun)).symm.trans h
    exact hi.afterBuild hr hdst fun _ => State.frameCount_of_truncated hi.cfgOk hlong
  · cases (execBuild_of_ne_rangeError (hcode ▸ nofun)).symm.trans h
    exact hi.afterBuild hr hdst fun hcut => nomatch hcode.symm.trans hcut

/-- The fields of a whole frame describe a payload region inside the buffer (42_frame.md R202). -/
theorem State.Inv.execParse {t : State} (h : execParse s = .next t) : t.Inv := by
  by_cases hok : s.parseCode = .ok
  · cases (execParse_of_parseCode_ok hok).symm.trans h
    obtain ⟨h4, hlen⟩ := State.lengths_of_parseCode_ok hok
    have hsrc : s.srcAt + s.srcCount ≤ s.cfg.bufSize :=
      Nat.not_lt.mp fun hbeyond => nomatch hok.symm.trans (State.parseCode_of_source_beyond hbeyond)
    refine hi.completed hr hi.memRising hi.memInBuffer nofun hi.resLenFits (.inr ?_)
    rw [s.parsedFields_len_toNat, s.parsedFields_payLen_toNat, s.parsedFields_payOff_toNat]
    omega
  · cases (execParse_of_parseCode_ne_ok rfl hok).symm.trans h
    exact hi.completed hr hi.memRising hi.memInBuffer nofun hi.resLenFits (.inl rfl)

/-- Every command's completion step keeps the invariant. -/
theorem State.Inv.exec {i : Instr} {t : State} (h : exec i s = .next t) : t.Inv := by
  cases i
  case pad => exact hi.execPad hr h
  case unpad => exact hi.execUnpad hr h
  case crc => exact hi.execCrc hr h
  case verify => exact hi.execVerify hr h
  case build => exact hi.execBuild hr h
  case parse => exact hi.execParse hr h

theorem State.Inv.engineStep {t : State} (h : engineStep s = .next t) : t.Inv := by
  cases hd : decode s.latch.cmd with
  | ok i => exact hi.exec hr ((engineStep_of_decode_ok hd).symm.trans h)
  | error e =>
    cases (engineStep_of_decode_error hd).symm.trans h
    exact hi.completed_same hr hi.resLenFits s.crcValue .illegalCmd

end

/-- Settles O9: `step_cases` leaves a completion, a turn passed, a transaction and a level of
`rst_n`, each of which keeps the invariant. -/
theorem everyStepKeepsTheInvariant : Obligations.EveryStepKeepsTheInvariant := by
  unfold Obligations.EveryStepKeepsTheInvariant
  intro s t hi hstep
  obtain ⟨-, ⟨-, hr, -, hengine⟩ | ⟨-, -, rfl⟩ | ⟨a, l, -, rfl⟩ | ⟨level, l, -, rfl⟩⟩ :=
    step_cases hstep
  · exact hi.popTurn.engineStep hr hengine
  · exact hi.popTurn
  · exact hi.popTurn.busStep a
  · exact hi.popTurn.driveRstN level

end Sys2Proof.Machine
end

section
/-! PROOF. 00_scope.md R9, 20_memory.md R80: each agent's turn as one step, and what every step
keeps or drops: the turn taken off, the parameters, the results, the reset. -/

namespace Sys2Proof.Machine

/-! ### One step, by the turn at the head of the schedule -/

theorem State.popTurn_of_sched_nil {s : State} (h : s.sched = []) : s.popTurn = s := by
  unfold State.popTurn
  rw [h, List.tail_nil, ← h]

theorem State.popTurn_of_sched_cons {s : State} {turn : Turn} {l : List Turn}
    (h : s.sched = turn :: l) : s.popTurn = { s with sched := l } := by
  rw [State.popTurn, h, List.tail_cons]

section
variable {s : State} (hwf : s.cfg.wellFormed = true)
include hwf

theorem step_of_engineNext (h : s.EngineNext) : step s = engineTurn s.popTurn := by
  rw [step, if_pos hwf]
  rcases h with hnil | ⟨l, hsched⟩
  · rw [hnil, State.popTurn_of_sched_nil hnil]
  · rw [hsched, State.popTurn_of_sched_cons hsched]

theorem step_of_sched_host {a : Access} {l : List Turn} (h : s.sched = .host a :: l) :
    step s = .next (s.popTurn.busStep a) := by
  rw [step, if_pos hwf, h, State.popTurn_of_sched_cons h]

theorem step_of_sched_rstN {level : Bool} {l : List Turn} (h : s.sched = .rstN level :: l) :
    step s = .next (s.popTurn.driveRstN level) := by
  rw [step, if_pos hwf, h, State.popTurn_of_sched_cons h]

theorem step_of_engineNext_idle (hidle : s.phase = .idle) (h : s.EngineNext) :
    step s = .next s.popTurn :=
  (step_of_engineNext hwf h).trans (engineTurn_idle (s := s.popTurn) hidle)

theorem step_of_engineNext_busy (hbusy : s.phase = .busy) (hr : s.rstN = true) (h : s.EngineNext) :
    step s = engineStep s.popTurn :=
  (step_of_engineNext hwf h).trans (engineTurn_busy (s := s.popTurn) hbusy hr)

end

/-- Settles O4: the engine's turn of a busy block is the completion step, which decodes the latched
word. -/
theorem stepRunsTheDecodedCommand : Obligations.StepRunsTheDecodedCommand := by
  unfold Obligations.StepRunsTheDecodedCommand
  intro s i l hwf hbusy hr hdecode _
  have hexec (hnext : s.EngineNext) : step s = exec i s.popTurn :=
    (step_of_engineNext_busy hwf hbusy hr hnext).trans
      (engineStep_of_decode_ok (s := s.popTurn) hdecode)
  refine ⟨fun hsched => ?_, fun hsched => ?_⟩
  · rw [hexec (.inl hsched), State.popTurn_of_sched_nil hsched]
  · rw [hexec (.inr ⟨l, hsched⟩), State.popTurn_of_sched_cons hsched]

/-- Settles O5: the head of the schedule is the agent that acts. -/
theorem hostTurnRunsTheTransaction : Obligations.HostTurnRunsTheTransaction := by
  unfold Obligations.HostTurnRunsTheTransaction
  intro s a l hwf hsched
  rw [step_of_sched_host hwf hsched, State.popTurn_of_sched_cons hsched]

/-- Settles O57: an idle block's engine turn is `State.popTurn`. -/
theorem idleEngineTurnChangesNothing : Obligations.IdleEngineTurnChangesNothing := by
  unfold Obligations.IdleEngineTurnChangesNothing
  exact fun s hwf hidle hnext => step_of_engineNext_idle hwf hidle hnext

theorem State.writeCmd_of_idle {s : State} (hidle : s.phase = .idle) (w : Word) :
    s.writeCmd w = s.issue w :=
  if_neg (by simp [State.busy, hidle])

/-- Settles O58: the step is `State.driveRstN true`, and a released idle block issues the word
written to `CMD`. -/
theorem releaseOfResetAcceptsTransactions : Obligations.ReleaseOfResetAcceptsTransactions := by
  unfold Obligations.ReleaseOfResetAcceptsTransactions
  intro s l hwf hsched
  refine ⟨_, step_of_sched_rstN hwf hsched, ?_, fun hidle w strb => ?_⟩
  · rw [State.popTurn_of_sched_cons hsched]
    rfl
  · have hissue := State.writeCmd_of_idle (s := s.popTurn.driveRstN true) hidle w
    rw [State.busStep_write_at (r := .cmd) _ w strb rfl rfl, State.writeReg, hissue]
    exact ⟨rfl, rfl⟩

/-! ### What every step keeps -/

theorem cfg_of_step {s t : State} (h : step s = .next t) : t.cfg = s.cfg := by
  obtain ⟨-, ⟨-, -, -, hengine⟩ | ⟨-, -, rfl⟩ | ⟨a, l, -, rfl⟩ | ⟨level, l, -, rfl⟩⟩ :=
    step_cases h
  · obtain ⟨m, r, c, p, code, trunc, rfl⟩ := completed_of_engineStep hengine
    rfl
  · rfl
  · obtain ⟨hcfg, -⟩ := s.popTurn.busStep_frame a
    exact hcfg
  · cases level <;> rfl

/-- Each step takes off one turn. -/
theorem sched_of_step {s t : State} (h : step s = .next t) : t.sched = s.sched.tail := by
  obtain ⟨-, ⟨-, -, -, hengine⟩ | ⟨-, -, rfl⟩ | ⟨a, l, -, rfl⟩ | ⟨level, l, -, rfl⟩⟩ :=
    step_cases h
  · obtain ⟨m, r, c, p, code, trunc, rfl⟩ := completed_of_engineStep hengine
    rfl
  · rfl
  · obtain ⟨-, -, -, -, -, -, -, -, hsched⟩ := s.popTurn.busStep_frame a
    exact hsched
  · cases level <;> rfl

/-- `ID` is a number and the `PARAM_*` registers read the parameters (10_state.md R22, R52-R56). -/
theorem State.readReg_constant {s t : State} (h : t.cfg = s.cfg) :
    ∀ r ∈ [Reg.id, .paramBlock, .paramMinf, .paramMaxf, .paramBuf, .paramCrc],
      t.readReg r = s.readReg r := by
  simp [State.readReg, h]

/-- Settles O10: no step changes the parameters, and these registers read nothing else. -/
theorem stepNeverChangesTheParameters : Obligations.StepNeverChangesTheParameters := by
  unfold Obligations.StepNeverChangesTheParameters
  exact fun s t hstep => ⟨cfg_of_step hstep, State.readReg_constant (cfg_of_step hstep)⟩

/-- Settles O12: without a completion and a reset, `step_cases` leaves a turn passed, a transaction,
which touches no result, and the release of `rst_n`. -/
theorem resultRegistersChangeOnlyAtCompletionOrReset :
    Obligations.ResultRegistersChangeOnlyAtCompletionOrReset := by
  unfold Obligations.ResultRegistersChangeOnlyAtCompletionOrReset
  intro s t hstep hcompletes hreset
  obtain ⟨-, ⟨hbusy, -, hnext, -⟩ | ⟨-, -, rfl⟩ | ⟨a, l, -, rfl⟩ | ⟨level, l, hsched, rfl⟩⟩ :=
    step_cases hstep
  · exact absurd ⟨hbusy, hnext⟩ hcompletes
  · exact ⟨rfl, rfl, rfl, rfl, rfl⟩
  · obtain ⟨-, htrunc, hcode, hlen, hcrc, hprs, -⟩ := s.popTurn.busStep_frame a
    exact ⟨hlen, hcrc, hprs, hcode, htrunc⟩
  · cases level
    case false => exact absurd ⟨l, hsched⟩ hreset
    case true => exact ⟨rfl, rfl, rfl, rfl, rfl⟩

/-! ### Reset -/

/-- Settles O20: each value stands in `State.reset`. -/
theorem resetStateHoldsTheStatedValues : Obligations.ResetStateHoldsTheStatedValues := by
  unfold Obligations.ResetStateHoldsTheStatedValues
  decide

/-- What a register reads in the state that a reset enters (10_state.md R61). -/
theorem State.readReg_enterReset (s : State) (r : Reg) :
    s.enterReset.readReg r = { State.reset with cfg := s.cfg }.readReg r := by
  cases r <;> rfl

/-- Settles O21: the step is `State.enterReset`. -/
theorem resetAbandonsTheCommandInFlight : Obligations.ResetAbandonsTheCommandInFlight := by
  unfold Obligations.ResetAbandonsTheCommandInFlight
  intro s l hwf hsched
  have hstep : step s = .next s.popTurn.enterReset := step_of_sched_rstN hwf hsched
  exact ⟨_, hstep, rfl, rfl, rfl, rfl, congrArg List.tail hsched, fun _ => rfl, rfl, fun _ => rfl,
    s.popTurn.readReg_enterReset⟩

/-- Settles O22: a transaction and the engine's turn both look at `rst_n` first. -/
theorem heldInResetNothingRuns : Obligations.HeldInResetNothingRuns := by
  unfold Obligations.HeldInResetNothingRuns
  intro s hheld
  have hn : ¬ s.rstN = true := by simp [hheld]
  refine ⟨fun off => if_neg hn, fun off wdata strb => if_neg hn, ?_⟩
  rcases engineTurn_cases s with ⟨-, hr, -⟩ | ⟨-, hturn⟩
  · exact absurd hr hn
  · exact hturn

end Sys2Proof.Machine
end

section
/-! PROOF. 60_exceptions.md R237, 20_memory.md R80: whatever turns are pending, all of them run and
no command stays in flight. -/

namespace Sys2Proof.Machine

theorem run_succ_of_step {M : Host.Core} {s t : M.State} (h : M.step s = .next t) (n : Nat) :
    M.run (n + 1) s = M.run n t := by
  rw [Host.Core.run, h]

/-- No step lets a block held in reset run a command (70_reset_and_hazards.md R260). -/
theorem idle_of_held_of_step {s t : State} (hheld : s.rstN = false → s.phase = .idle)
    (hstep : step s = .next t) : t.rstN = false → t.phase = .idle := by
  obtain ⟨-, ⟨-, -, -, hengine⟩ | ⟨-, -, rfl⟩ | ⟨a, l, -, rfl⟩ | ⟨level, l, -, rfl⟩⟩ :=
    step_cases hstep
  · obtain ⟨m, r, c, p, code, trunc, rfl⟩ := completed_of_engineStep hengine
    exact fun _ => rfl
  · exact hheld
  · intro hlow
    obtain ⟨-, -, -, -, -, -, hrst, -⟩ := s.popTurn.busStep_frame a
    have hs : s.rstN = false := hrst.symm.trans hlow
    rcases s.popTurn.busStep_cases a with ⟨-, h | h⟩ | ⟨hr, -⟩
    · rw [h]
      exact hheld hs
    · rw [h]
      exact hheld hs
    · exact nomatch hr.symm.trans hs
  · cases level
    case false => exact fun _ => rfl
    case true => exact nofun

/-- The engine's turn leaves no command in flight. -/
theorem idle_of_step_of_engineNext {s t : State} (hheld : s.rstN = false → s.phase = .idle)
    (hnext : s.EngineNext) (hstep : step s = .next t) : t.phase = .idle := by
  obtain ⟨hwf, -⟩ := step_cases hstep
  rw [step_of_engineNext hwf hnext] at hstep
  rcases engineTurn_cases s.popTurn with ⟨-, -, hturn⟩ | ⟨hquiet, hturn⟩
  · obtain ⟨m, r, c, p, code, trunc, rfl⟩ := completed_of_engineStep (hturn.symm.trans hstep)
    rfl
  · cases hturn.symm.trans hstep
    exact hquiet.elim id hheld

/-- All pending turns run, and the engine's turn after them ends the command in flight. -/
theorem run_all_turns (l : List Turn) : ∀ s : State, s.sched = l → s.cfg.wellFormed = true →
    (s.rstN = false → s.phase = .idle) →
    ∃ t : State, Host.Core.run Sys2Proof.core (l.length + 1) s = .next t ∧
      t.sched = [] ∧ t.phase = .idle := by
  induction l with
  | nil =>
    intro s hsched hwf hheld
    obtain ⟨t, hstep⟩ := step_next_of_wellFormed hwf
    refine ⟨t, run_succ_of_step (M := Sys2Proof.core) hstep 0, ?_,
      idle_of_step_of_engineNext hheld (.inl hsched) hstep⟩
    rw [sched_of_step hstep, hsched, List.tail_nil]
  | cons turn l ih =>
    intro s hsched hwf hheld
    obtain ⟨t, hstep⟩ := step_next_of_wellFormed hwf
    have ht : t.sched = l := by rw [sched_of_step hstep, hsched, List.tail_cons]
    obtain ⟨u, hrun, hu⟩ := ih t ht (cfg_of_step hstep ▸ hwf) (idle_of_held_of_step hheld hstep)
    exact ⟨u, (run_succ_of_step (M := Sys2Proof.core) hstep _).trans hrun, hu⟩

/-- The command that state `s` runs is still running in state `u`, with the latch and the buffer of
`s` (20_memory.md R81). -/
structure State.StillRuns (s u : State) : Prop where
  busy : u.phase = .busy
  released : u.rstN = true
  latch_eq : u.latch = s.latch
  mem_eq : u.mem = s.mem
  epoch_eq : u.epoch = s.epoch

theorem State.StillRuns.trans {s t u : State} (h : s.StillRuns t) (h' : t.StillRuns u) :
    s.StillRuns u :=
  ⟨h'.busy, h'.released, h'.latch_eq.trans h.latch_eq, h'.mem_eq.trans h.mem_eq,
    h'.epoch_eq.trans h.epoch_eq⟩

/-- A turn that is neither the engine's nor a reset leaves the command running. -/
theorem State.stillRuns_of_step {s t : State} (hbusy : s.phase = .busy) (hr : s.rstN = true)
    (hengine : ¬ s.EngineNext) (hreset : ¬ s.ResetNext) (hstep : step s = .next t) :
    s.StillRuns t := by
  obtain ⟨-, ⟨-, -, hnext, -⟩ | ⟨-, hnext, -⟩ | ⟨a, l, -, rfl⟩ | ⟨level, l, hsched, rfl⟩⟩ :=
    step_cases hstep
  · exact absurd hnext hengine
  · exact absurd hnext hengine
  · obtain ⟨hphase, hlatch, hmem⟩ := s.popTurn.busStep_busy hbusy hr a
    obtain ⟨-, -, -, -, -, -, hrst, hepoch, -⟩ := s.popTurn.busStep_frame a
    exact ⟨hphase, hrst.trans hr, hlatch, hmem, hepoch⟩
  · cases level
    case false => exact absurd ⟨l, hsched⟩ hreset
    case true => exact ⟨hbusy, rfl, rfl, rfl, rfl⟩

theorem run_to_engine_turn (l : List Turn) : ∀ s : State, s.sched = l → s.cfg.wellFormed = true →
    s.phase = .busy → s.rstN = true → Turn.rstN false ∉ l →
    ∃ (k : Nat) (u : State), k ≤ l.length ∧ Host.Core.run Sys2Proof.core k s = .next u ∧
      s.StillRuns u ∧ u.EngineNext ∧ u.cfg.wellFormed = true := by
  induction l with
  | nil =>
    intro s hsched hwf hbusy hr _
    exact ⟨0, s, Nat.le_refl 0, rfl, ⟨hbusy, hr, rfl, rfl, rfl⟩, .inl hsched, hwf⟩
  | cons turn l ih =>
    intro s hsched hwf hbusy hr hnoreset
    by_cases hengine : s.EngineNext
    · exact ⟨0, s, Nat.zero_le _, rfl, ⟨hbusy, hr, rfl, rfl, rfl⟩, hengine, hwf⟩
    have hreset : ¬ s.ResetNext := by
      rintro ⟨l', hlow⟩
      cases hsched.symm.trans hlow
      exact hnoreset List.mem_cons_self
    obtain ⟨t, hstep⟩ := step_next_of_wellFormed hwf
    have ht : t.sched = l := by rw [sched_of_step hstep, hsched, List.tail_cons]
    have hruns := State.stillRuns_of_step hbusy hr hengine hreset hstep
    obtain ⟨k, u, hk, hrun, hu, hnext, hucfg⟩ := ih t ht (cfg_of_step hstep ▸ hwf) hruns.busy
      hruns.released fun hmem => hnoreset (List.mem_cons_of_mem _ hmem)
    exact ⟨k + 1, u, Nat.succ_le_succ hk,
      (run_succ_of_step (M := Sys2Proof.core) hstep k).trans hrun, hruns.trans hu, hnext, hucfg⟩

/-- At the engine's turn a running command completes: the block is idle, with DONE set. -/
theorem step_completes {u : State} (hwf : u.cfg.wellFormed = true) (hbusy : u.phase = .busy)
    (hr : u.rstN = true) (hnext : u.EngineNext) :
    ∃ v : State, step u = .next v ∧ v.phase = .idle ∧ v.done = true := by
  obtain ⟨m, r, c, p, code, trunc, hengine⟩ := engineStep_completed u.popTurn
  exact ⟨_, (step_of_engineNext_busy hwf hbusy hr hnext).trans hengine, rfl, rfl⟩

/-- Settles O7: by induction on the pending turns, each of which is one step. -/
theorem everyIssuedCommandCompletes : Obligations.EveryIssuedCommandCompletes := by
  unfold Obligations.EveryIssuedCommandCompletes
  intro s hwf hheld
  refine ⟨run_all_turns s.sched s rfl hwf hheld, fun hbusy hnoreset => ?_⟩
  have hr : s.rstN = true :=
    Bool.eq_true_of_not_eq_false fun hlow => nomatch hbusy.symm.trans (hheld hlow)
  obtain ⟨k, u, hk, hrun, hu, hnext, hucfg⟩ :=
    run_to_engine_turn s.sched s rfl hwf hbusy hr hnoreset
  obtain ⟨v, hstep, hidle, hdone⟩ := step_completes hucfg hu.busy hu.released hnext
  exact ⟨k, u, v, hk, hrun, hu.busy, hnext, hu.latch_eq, hu.mem_eq, hu.epoch_eq, hstep, hidle,
    hdone⟩

end Sys2Proof.Machine
end

section
/-! PROOF. 10_state.md R27, R28, R30, 60_exceptions.md R239, R240: which turns change BUSY, DONE,
OVERRUN and `irq`. -/

namespace Sys2Proof.Machine

/-! ### The accesses that write a register, and those that do not -/

/-- A write of the word `w` to the register `r` (10_state.md R23; `off[1:0]` is ignored,
20_memory.md R75). -/
def Access.WritesReg (a : Access) (r : Reg) (w : Word) : Prop :=
  ∃ off strb, a = .write off w strb ∧ off.toNat / 4 = r.offset / 4

theorem Access.writesCmd_iff {a : Access} : a.WritesCmd ↔ ∃ w, a.WritesReg .cmd w := by
  constructor
  · rintro ⟨off, w, strb, ha, ho⟩
    exact ⟨w, off, strb, ha, ho⟩
  · rintro ⟨w, off, strb, ha, ho⟩
    exact ⟨off, w, strb, ha, ho⟩

theorem Access.setsBit_iff {a : Access} (r : Reg) (k : Nat) :
    a.SetsBit r.offset k ↔ ∃ w, a.WritesReg r w ∧ w.getLsbD k = true := by
  constructor
  · rintro ⟨off, w, strb, ha, ho, hk⟩
    exact ⟨w, ⟨off, strb, ha, ho⟩, hk⟩
  · rintro ⟨w, ⟨off, strb, ha, ho⟩, hk⟩
    exact ⟨off, w, strb, ha, ho, hk⟩

/-- A register write breaks the serialisation rule exactly when it is one of `CMD`. -/
theorem Access.WritesReg.breaches_iff {a : Access} {r : Reg} {w : Word} (h : a.WritesReg r w) :
    a.Breaches ↔ r = .cmd := by
  obtain ⟨off, strb, rfl, ho⟩ := h
  have hr := r.offset_lt
  constructor
  · rintro (hwindow | hcmd)
    · omega
    · exact Reg.eq_of_offset_div (ho.symm.trans hcmd)
  · rintro rfl
    exact .inr ho

/-- What a transaction changes among the flags: a register write what the register's rule says, any
other access nothing, but for OVERRUN where it breaks the serialisation rule. -/
theorem State.busStep_flags {s : State} (hr : s.rstN = true) (a : Access) :
    (∃ r w, a.WritesReg r w ∧ s.busStep a = s.writeReg r w) ∨
    ((∀ r w, ¬ a.WritesReg r w) ∧ (s.busStep a).phase = s.phase ∧ (s.busStep a).done = s.done ∧
      (s.busStep a).irqEn = s.irqEn ∧
      (s.phase = .busy → a.Breaches → (s.busStep a).overrun = true) ∧
      (¬ (s.phase = .busy ∧ a.Breaches) → (s.busStep a).overrun = s.overrun)) := by
  have hwindow {off w strb} (ho : 0x1000 ≤ BitVec.toNat off) (r v) :
      ¬ (Access.write off w strb).WritesReg r v := by
    rintro ⟨_, _, heq, ho'⟩
    cases heq
    have := r.offset_lt
    omega
  rcases s.busStep_cases a with ⟨hlow, -⟩ | ⟨-, ⟨v, ⟨off, rfl, ho⟩, h⟩ |
    ⟨off, w, b, r, rfl, ho, h⟩ | ⟨off, w, b, rfl, hlt, ho, h⟩ | ⟨off, w, b, rfl, ho, hidle, h⟩ |
    ⟨off, rfl, ho, hbusy, h⟩ |
    ⟨off, w, b, rfl, ho, hbusy, h⟩⟩
  · exact nomatch hr.symm.trans hlow
  · refine .inr ⟨nofun, ?_⟩
    rw [h]
    refine ⟨rfl, rfl, rfl, fun hbusy hbreach => ?_, fun _ => rfl⟩
    rcases ho with hlt | hidle
    · exact absurd hlt (Nat.not_lt.mpr hbreach)
    · exact nomatch hbusy.symm.trans hidle
  · exact .inl ⟨r, w, ⟨off, b, rfl, ho⟩, h⟩
  · refine .inr ⟨fun r v => ?_, ?_⟩
    · rintro ⟨_, _, heq, ho'⟩
      cases heq
      exact ho r ho'
    · rw [h]
      refine ⟨rfl, rfl, rfl, fun _ hbreach => ?_, fun _ => rfl⟩
      rcases hbreach with hge | hcmd
      · exact absurd hlt (Nat.not_lt.mpr hge)
      · exact absurd hcmd (ho .cmd)
  · refine .inr ⟨hwindow ho, ?_⟩
    rw [h, s.writeWindow_eq]
    refine ⟨rfl, rfl, rfl, fun hbusy => ?_, fun _ => rfl⟩
    exact nomatch hbusy.symm.trans hidle
  · refine .inr ⟨nofun, ?_⟩
    rw [h]
    exact ⟨rfl, rfl, rfl, fun _ _ => rfl, fun hno => absurd ⟨hbusy, ho⟩ hno⟩
  · refine .inr ⟨hwindow ho, ?_⟩
    rw [h]
    exact ⟨rfl, rfl, rfl, fun _ _ => rfl, fun hno => absurd ⟨hbusy, .inl ho⟩ hno⟩

section
variable {s : State} (hr : s.rstN = true) {a : Access}
include hr

theorem State.busStep_of_writesReg {r : Reg} {w : Word} (h : a.WritesReg r w) :
    s.busStep a = s.writeReg r w := by
  obtain ⟨off, strb, rfl, ho⟩ := h
  exact s.busStep_write_at w strb hr ho

/-- Only a write to `CMD` starts a command (10_state.md R33). -/
theorem State.busStep_phase_of_not_writesCmd (h : ¬ a.WritesCmd) :
    (s.busStep a).phase = s.phase := by
  rcases State.busStep_flags hr a with ⟨r, w, hw, heq⟩ | ⟨-, hphase, -⟩
  · have hcmd : r ≠ .cmd := fun hcmd => h (Access.writesCmd_iff.mpr ⟨w, hcmd ▸ hw⟩)
    rw [heq, s.writeReg_phase, if_neg hcmd]
  · exact hphase

theorem State.busStep_done_of_writesCmd (h : a.WritesCmd) :
    (s.busStep a).done = (s.done && s.busy) := by
  obtain ⟨w, hw⟩ := Access.writesCmd_iff.mp h
  rw [State.busStep_of_writesReg hr hw, s.writeReg_done, if_pos rfl]

theorem State.busStep_done_of_setsBit (h : a.SetsBit 0x008 1) : (s.busStep a).done = false := by
  obtain ⟨w, hw, hbit⟩ := (Access.setsBit_iff .status 1).mp h
  rw [State.busStep_of_writesReg hr hw, s.writeReg_done, if_neg nofun, if_pos rfl, hbit,
    Bool.not_true, Bool.and_false]

theorem State.busStep_done_of_other (hcmd : ¬ a.WritesCmd) (hbit : ¬ a.SetsBit 0x008 1) :
    (s.busStep a).done = s.done := by
  rcases State.busStep_flags hr a with ⟨r, w, hw, heq⟩ | ⟨-, -, hdone, -⟩
  · have hr : r ≠ .cmd := fun h => hcmd (Access.writesCmd_iff.mpr ⟨w, h ▸ hw⟩)
    rw [heq, s.writeReg_done, if_neg hr]
    split
    · next hstatus =>
      have hclear : w.getLsbD 1 = false := Bool.eq_false_of_not_eq_true fun hset =>
        hbit ((Access.setsBit_iff .status 1).mpr ⟨w, hstatus ▸ hw, hset⟩)
      rw [hclear, Bool.not_false, Bool.and_true]
    · rfl
  · exact hdone

theorem State.busStep_overrun_of_breaches (hbusy : s.phase = .busy) (h : a.Breaches) :
    (s.busStep a).overrun = true := by
  rcases State.busStep_flags hr a with ⟨r, w, hw, heq⟩ | ⟨-, -, -, -, hset, -⟩
  · rw [heq, s.writeReg_overrun, if_pos (hw.breaches_iff.mp h), s.busy_iff.mpr hbusy, Bool.or_true]
  · exact hset hbusy h

theorem State.busStep_overrun_of_setsBit (h : a.SetsBit 0x008 3) :
    (s.busStep a).overrun = false := by
  obtain ⟨w, hw, hbit⟩ := (Access.setsBit_iff .status 3).mp h
  rw [State.busStep_of_writesReg hr hw, s.writeReg_overrun, if_neg nofun, if_pos rfl, hbit,
    Bool.not_true, Bool.and_false]

theorem State.busStep_overrun_of_other (hbreach : ¬ (s.phase = .busy ∧ a.Breaches))
    (hbit : ¬ a.SetsBit 0x008 3) : (s.busStep a).overrun = s.overrun := by
  rcases State.busStep_flags hr a with ⟨r, w, hw, heq⟩ | ⟨-, -, -, -, -, hkeep⟩
  · rw [heq, s.writeReg_overrun]
    split
    · next hcmd =>
      have hidle : s.busy = false := Bool.eq_false_of_not_eq_true fun hbusy =>
        hbreach ⟨s.busy_iff.mp hbusy, hw.breaches_iff.mpr hcmd⟩
      rw [hidle, Bool.or_false]
    · split
      · next hstatus =>
        have hclear : w.getLsbD 3 = false := Bool.eq_false_of_not_eq_true fun hset =>
          hbit ((Access.setsBit_iff .status 3).mpr ⟨w, hstatus ▸ hw, hset⟩)
        rw [hclear, Bool.not_false, Bool.and_true]
      · rfl
  · exact hkeep hbreach

/-- `IRQ_EN` is what the host last wrote to bit 0 of `CTRL` (10_state.md R24). -/
theorem State.busStep_irqEn (a : Access) :
    (∃ w, a.WritesReg .ctrl w ∧ (s.busStep a).irqEn = w.getLsbD 0) ∨
    (s.busStep a).irqEn = s.irqEn := by
  rcases State.busStep_flags hr a with ⟨r, w, hw, heq⟩ | ⟨-, -, -, hirq, -⟩
  · rw [heq, s.writeReg_irqEn]
    split
    · next hctrl => exact .inl ⟨w, hctrl ▸ hw, rfl⟩
    · exact .inr rfl
  · exact .inr hirq

end

/-- Held in reset a transaction changes none of the flags (70_reset_and_hazards.md R260). -/
theorem State.busStep_of_held {s : State} (hr : s.rstN = false) (a : Access) :
    (s.busStep a).phase = s.phase ∧ (s.busStep a).done = s.done ∧
      (s.busStep a).irqEn = s.irqEn := by
  rcases s.busStep_cases a with ⟨-, h | h⟩ | ⟨hhigh, -⟩
  · rw [h]
    exact ⟨rfl, rfl, rfl⟩
  · rw [h]
    exact ⟨rfl, rfl, rfl⟩
  · exact nomatch hhigh.symm.trans hr

/-! ### The flags after a step -/

/-- What the step at the engine's turn of a busy block leaves. -/
theorem completed_of_step {s t : State} (hbusy : s.phase = .busy) (hr : s.rstN = true)
    (hnext : s.EngineNext) (hstep : step s = .next t) :
    ∃ m r c p code trunc, t = s.popTurn.completed m r c p code trunc := by
  obtain ⟨hwf, -⟩ := step_cases hstep
  exact completed_of_engineStep ((step_of_engineNext_busy hwf hbusy hr hnext).symm.trans hstep)

theorem eq_popTurn_of_step {s t : State} (hidle : s.phase = .idle) (hnext : s.EngineNext)
    (hstep : step s = .next t) : t = s.popTurn := by
  obtain ⟨hwf, -⟩ := step_cases hstep
  cases (step_of_engineNext_idle hwf hidle hnext).symm.trans hstep
  rfl

theorem eq_busStep_of_step {s t : State} {a : Access} {l : List Turn}
    (hsched : s.sched = .host a :: l) (hstep : step s = .next t) : t = s.popTurn.busStep a := by
  obtain ⟨hwf, -⟩ := step_cases hstep
  cases (step_of_sched_host hwf hsched).symm.trans hstep
  rfl

theorem eq_release_of_step {s t : State} {l : List Turn} (hsched : s.sched = .rstN true :: l)
    (hstep : step s = .next t) : t = { s.popTurn with rstN := true } := by
  obtain ⟨hwf, -⟩ := step_cases hstep
  cases (step_of_sched_rstN hwf hsched).symm.trans hstep
  rfl

/-- Settles O13: a turn passed and the release of `rst_n` keep the phase, a transaction leaves
`idle` by a `CMD` write and never `busy`, a completion and a reset end in `idle`. -/
theorem busyRunsFromIssueToCompletion : Obligations.BusyRunsFromIssueToCompletion := by
  unfold Obligations.BusyRunsFromIssueToCompletion
  intro s t hstep
  refine ⟨fun hidle hbusy => ?_, fun hbusy hidle => ?_, fun hbusy hr hnext => ?_⟩
  · obtain ⟨-, ⟨hs, -⟩ | ⟨-, -, rfl⟩ | ⟨a, l, hsched, rfl⟩ | ⟨level, l, -, rfl⟩⟩ := step_cases hstep
    · exact nomatch hs.symm.trans hidle
    · exact nomatch hbusy.symm.trans hidle
    · cases hr : s.rstN with
      | false =>
        obtain ⟨hphase, -⟩ := State.busStep_of_held (s := s.popTurn) hr a
        exact nomatch hbusy.symm.trans (hphase.trans hidle)
      | true =>
        refine ⟨a, l, hsched, Classical.byContradiction fun hcmd => ?_, rfl⟩
        have hphase := State.busStep_phase_of_not_writesCmd (s := s.popTurn) hr hcmd
        exact nomatch hbusy.symm.trans (hphase.trans hidle)
    · cases level
      case false => exact nomatch hbusy
      case true => exact nomatch hbusy.symm.trans hidle
  · obtain ⟨-, ⟨-, hr, hnext, -⟩ | ⟨-, -, rfl⟩ | ⟨a, l, -, rfl⟩ | ⟨level, l, hsched, rfl⟩⟩ :=
      step_cases hstep
    · exact .inl ⟨hr, hnext⟩
    · exact nomatch hbusy.symm.trans hidle
    · cases hr : s.rstN with
      | false =>
        obtain ⟨hphase, -⟩ := State.busStep_of_held (s := s.popTurn) hr a
        exact nomatch hidle.symm.trans (hphase.trans hbusy)
      | true =>
        obtain ⟨hphase, -⟩ := s.popTurn.busStep_busy hbusy hr a
        exact nomatch hidle.symm.trans hphase
    · cases level
      case false => exact .inr ⟨l, hsched⟩
      case true => exact nomatch hbusy.symm.trans hidle
  · obtain ⟨m, r, c, p, code, trunc, rfl⟩ := completed_of_step hbusy hr hnext hstep
    rfl

/-- Settles O14: each clause fixes whose turn it is, and with it the next state. -/
theorem doneIsSetByCompletionAndClearedByIssueOrHost :
    Obligations.DoneIsSetByCompletionAndClearedByIssueOrHost := by
  unfold Obligations.DoneIsSetByCompletionAndClearedByIssueOrHost
  intro s t hstep hr
  refine ⟨fun hbusy hnext => ?_, fun hidle hnext => ?_, fun a l hsched => ?_, fun l hsched => ?_,
    fun hreset => ?_⟩
  · obtain ⟨m, r, c, p, code, trunc, rfl⟩ := completed_of_step hbusy hr hnext hstep
    rfl
  · obtain rfl := eq_popTurn_of_step hidle hnext hstep
    rfl
  · obtain rfl := eq_busStep_of_step hsched hstep
    refine ⟨fun hidle hcmd => ?_, fun hbusy hcmd => ?_, ?_, ?_⟩
    · rw [State.busStep_done_of_writesCmd (s := s.popTurn) hr hcmd,
        s.popTurn.busy_eq_false_iff.mpr hidle, Bool.and_false]
    · rw [State.busStep_done_of_writesCmd (s := s.popTurn) hr hcmd, s.popTurn.busy_iff.mpr hbusy,
        Bool.and_true, State.popTurn_done]
    · exact State.busStep_done_of_setsBit (s := s.popTurn) hr
    · exact State.busStep_done_of_other (s := s.popTurn) hr
  · obtain rfl := eq_release_of_step hsched hstep
    rfl
  · obtain rfl := eq_enterReset_of_step hstep hreset
    rfl

/-- Settles O15: each clause fixes whose turn it is, and with it the next state. -/
theorem overrunRecordsExactlyTheBreaches : Obligations.OverrunRecordsExactlyTheBreaches := by
  unfold Obligations.OverrunRecordsExactlyTheBreaches
  intro s t hstep hr
  refine ⟨fun hnext => ?_, fun a l hsched => ?_, fun l hsched => ?_, fun hreset => ?_⟩
  · cases hphase : s.phase with
    | idle =>
      obtain rfl := eq_popTurn_of_step hphase hnext hstep
      rfl
    | busy =>
      obtain ⟨m, r, c, p, code, trunc, rfl⟩ := completed_of_step hphase hr hnext hstep
      rfl
  · obtain rfl := eq_busStep_of_step hsched hstep
    exact ⟨State.busStep_overrun_of_breaches (s := s.popTurn) hr,
      State.busStep_overrun_of_setsBit (s := s.popTurn) hr,
      State.busStep_overrun_of_other (s := s.popTurn) hr⟩
  · obtain rfl := eq_release_of_step hsched hstep
    rfl
  · obtain rfl := eq_enterReset_of_step hstep hreset
    rfl

/-! ### The interrupt level -/

theorem State.irq_iff (s : State) : s.irq = true ↔ s.done = true ∧ s.irqEn = true := by
  simp [State.irq]

theorem State.irq_congr {s t : State} (hdone : t.done = s.done) (hen : t.irqEn = s.irqEn) :
    t.irq = s.irq := by
  rw [State.irq, hdone, hen, ← State.irq]

/-- A transaction never sets DONE (10_state.md R28). -/
theorem State.done_of_busStep_done {s : State} {a : Access} (h : (s.busStep a).done = true) :
    s.done = true := by
  cases hr : s.rstN with
  | false =>
    obtain ⟨-, hdone, -⟩ := State.busStep_of_held hr a
    exact hdone ▸ h
  | true =>
    by_cases hcmd : a.WritesCmd
    · rw [State.busStep_done_of_writesCmd hr hcmd, Bool.and_eq_true] at h
      obtain ⟨hdone, -⟩ := h
      exact hdone
    by_cases hbit : a.SetsBit 0x008 1
    · exact nomatch h.symm.trans (State.busStep_done_of_setsBit hr hbit)
    · exact State.busStep_done_of_other hr hcmd hbit ▸ h

/-- A transaction raises `irq` only by setting `IRQ_EN` while DONE (60_exceptions.md R240). -/
theorem State.busStep_raises_irq {s : State} {a : Access} (hlow : s.irq = false)
    (hhigh : (s.busStep a).irq = true) : a.SetsBit 0x004 0 ∧ s.done = true := by
  obtain ⟨hdone, hen⟩ := (State.irq_iff _).mp hhigh
  have hs := State.done_of_busStep_done hdone
  refine ⟨?_, hs⟩
  have hsame : (s.busStep a).irqEn ≠ s.irqEn := fun h =>
    nomatch hlow.symm.trans (s.irq_iff.mpr ⟨hs, h ▸ hen⟩)
  cases hr : s.rstN with
  | false =>
    obtain ⟨-, -, hirq⟩ := State.busStep_of_held hr a
    exact absurd hirq hsame
  | true =>
    obtain ⟨w, hw, hbit⟩ := (State.busStep_irqEn hr a).resolve_right hsame
    exact (Access.setsBit_iff .ctrl 0).mpr ⟨w, hw, hbit ▸ hen⟩

/-- A transaction lowers `irq` only by clearing DONE, writing `CMD` or clearing `IRQ_EN`
(60_exceptions.md R240). -/
theorem State.busStep_lowers_irq {s : State} {a : Access} (hhigh : s.irq = true)
    (hlow : (s.busStep a).irq = false) :
    a.SetsBit 0x008 1 ∨ a.WritesCmd ∨ ∃ w, a.WritesReg .ctrl w ∧ w.getLsbD 0 = false := by
  cases hr : s.rstN with
  | false =>
    obtain ⟨-, hdone, hirq⟩ := State.busStep_of_held hr a
    exact nomatch hlow.symm.trans ((State.irq_congr hdone hirq).trans hhigh)
  | true =>
    by_cases hbit : a.SetsBit 0x008 1
    · exact .inl hbit
    by_cases hcmd : a.WritesCmd
    · exact .inr (.inl hcmd)
    have hdone := State.busStep_done_of_other hr hcmd hbit
    rcases State.busStep_irqEn hr a with ⟨w, hw, hen⟩ | hsame
    · refine .inr (.inr ⟨w, hw, ?_⟩)
      obtain ⟨hset, -⟩ := s.irq_iff.mp hhigh
      rw [State.irq, hdone, hset, Bool.true_and, hen] at hlow
      exact hlow
    · exact nomatch hlow.symm.trans ((State.irq_congr hdone hsame).trans hhigh)

/-- Settles O16: a turn passed and the release of `rst_n` keep DONE and `IRQ_EN`, a completion sets
DONE and keeps `IRQ_EN`, a reset clears both, and a transaction is told by the lemmas above. -/
theorem interruptLevelChangesOnlyForItsCauses :
    Obligations.InterruptLevelChangesOnlyForItsCauses := by
  unfold Obligations.InterruptLevelChangesOnlyForItsCauses
  intro s t hstep
  refine ⟨s.irq_iff, fun hbusy hr hnext hen => ?_, fun hlow hhigh => ?_, fun hhigh hlow => ?_⟩
  · obtain ⟨m, r, c, p, code, trunc, rfl⟩ := completed_of_step hbusy hr hnext hstep
    exact (State.irq_iff _).mpr ⟨rfl, hen⟩
  · obtain ⟨-, ⟨hbusy, hr, hnext, -⟩ | ⟨-, -, rfl⟩ | ⟨a, l, hsched, rfl⟩ | ⟨level, l, -, rfl⟩⟩ :=
      step_cases hstep
    · obtain ⟨m, r, c, p, code, trunc, rfl⟩ := completed_of_step hbusy hr hnext hstep
      obtain ⟨-, hen⟩ := (State.irq_iff _).mp hhigh
      exact .inl ⟨hbusy, hnext, hen⟩
    · exact nomatch hlow.symm.trans hhigh
    · exact .inr ⟨a, l, hsched, State.busStep_raises_irq (s := s.popTurn) hlow hhigh⟩
    · cases level
      case false => exact nomatch hhigh
      case true => exact nomatch hlow.symm.trans hhigh
  · obtain ⟨-, ⟨hbusy, hr, hnext, -⟩ | ⟨-, -, rfl⟩ | ⟨a, l, hsched, rfl⟩ |
      ⟨level, l, hsched, rfl⟩⟩ := step_cases hstep
    · obtain ⟨m, r, c, p, code, trunc, rfl⟩ := completed_of_step hbusy hr hnext hstep
      obtain ⟨-, hen⟩ := s.irq_iff.mp hhigh
      exact nomatch hlow.symm.trans ((State.irq_iff _).mpr ⟨rfl, hen⟩)
    · exact nomatch hlow.symm.trans hhigh
    · refine .inl ⟨a, l, hsched, ?_⟩
      rcases State.busStep_lowers_irq (s := s.popTurn) hhigh hlow with hbit | hcmd |
        ⟨w, ⟨off, strb, ha, ho⟩, hclear⟩
      · exact .inl hbit
      · exact .inr (.inl hcmd)
      · exact .inr (.inr ⟨off, w, strb, ha, ho, hclear⟩)
    · cases level
      case false => exact .inr ⟨l, hsched⟩
      case true => exact nomatch hlow.symm.trans hhigh

end Sys2Proof.Machine
end

section
/-! PROOF. 10_state.md R57: the latch is read by the engine alone, so an idle block's step does not
depend on it. -/

namespace Sys2Proof.Machine

/-- State `s` with the latch `x`. -/
def State.withLatch (s : State) (x : Latch) : State := { s with latch := x }

@[simp] theorem State.withLatch_rstN (s : State) (x : Latch) : (s.withLatch x).rstN = s.rstN := rfl
@[simp] theorem State.withLatch_busy (s : State) (x : Latch) : (s.withLatch x).busy = s.busy := rfl

/-- An issue takes a latch of its own, and no other register write reads or sets it (10_state.md
R45). -/
theorem State.writeReg_withLatch {s : State} (hidle : s.phase = .idle) (x : Latch) (r : Reg)
    (w : Word) :
    (r = .cmd ∧ (s.withLatch x).writeReg r w = s.writeReg r w) ∨
    (r ≠ .cmd ∧ (s.withLatch x).writeReg r w = (s.writeReg r w).withLatch x) := by
  cases r
  case cmd =>
    have hissue := State.writeCmd_of_idle (s := s.withLatch x) hidle w
    exact .inl ⟨rfl, hissue.trans (State.writeCmd_of_idle hidle w).symm⟩
  case cfgDstLo | cfgDstHi | cfgSrcLo | cfgSrcHi =>
    refine .inr ⟨nofun, ?_⟩
    simp only [State.writeReg]
    rw [apply_ite (State.withLatch · x)]
    rfl
  all_goals exact .inr ⟨nofun, rfl⟩

theorem State.writeLane_withLatch (s : State) (x : Latch) (j : Nat) (wdata : Word)
    (strb : BitVec 4) (i : Nat) :
    (s.withLatch x).writeLane j wdata strb i = (s.writeLane j wdata strb i).withLatch x := by
  simp only [State.writeLane]
  rw [apply_ite (State.withLatch · x)]
  rfl

theorem State.writeWindow_withLatch (s : State) (x : Latch) (j : Nat) (wdata : Word)
    (strb : BitVec 4) :
    (s.withLatch x).writeWindow j wdata strb = (s.writeWindow j wdata strb).withLatch x := by
  simp only [State.writeWindow, List.foldl_cons, List.foldl_nil, State.writeLane_withLatch]

theorem State.busRead_withLatch (s : State) (x : Latch) (off : BitVec 13) :
    (s.withLatch x).busRead off = (s.busRead off).withLatch x := by
  simp only [State.busRead]
  split
  · rw [apply_ite (State.withLatch · x)]
    rfl
  · split <;> rfl

theorem State.busWrite_withLatch {s : State} (hidle : s.phase = .idle) (x : Latch)
    (off : BitVec 13) (wdata : Word) (strb : BitVec 4) :
    (s.withLatch x).busWrite off wdata strb = s.busWrite off wdata strb ∨
    ((s.busWrite off wdata strb).phase = .idle ∧
      (s.withLatch x).busWrite off wdata strb = (s.busWrite off wdata strb).withLatch x) := by
  have hbusy : s.busy = false := s.busy_eq_false_iff.mpr hidle
  simp only [State.busWrite, State.withLatch_busy, hbusy, Bool.false_eq_true, if_false]
  split
  · refine .inr ⟨?_, s.writeWindow_withLatch x _ wdata strb⟩
    rw [s.writeWindow_eq]
    exact hidle
  · split
    · next r _ =>
      rcases State.writeReg_withLatch hidle x r wdata with ⟨-, hissue⟩ | ⟨hne, hwrite⟩
      · exact .inl hissue
      · exact .inr ⟨by rw [s.writeReg_phase, if_neg hne, hidle], hwrite⟩
    · exact .inr ⟨hidle, rfl⟩

/-- The transactions of an idle block that do not issue a command leave the latch aside. -/
theorem State.busStep_withLatch {s : State} (hidle : s.phase = .idle) (x : Latch) (a : Access) :
    (s.withLatch x).busStep a = s.busStep a ∨
    ((s.busStep a).phase = .idle ∧ (s.withLatch x).busStep a = (s.busStep a).withLatch x) := by
  by_cases hr : s.rstN = true
  · cases a with
    | read off =>
      have hphase := State.busStep_phase_of_not_writesCmd (a := .read off) hr
        fun ⟨_, _, _, h, _⟩ => nomatch h
      refine .inr ⟨hphase.trans hidle, ?_⟩
      simp only [State.busStep, State.withLatch_rstN, hr, if_true]
      exact s.busRead_withLatch x off
    | write off wdata strb =>
      simp only [State.busStep, State.withLatch_rstN, hr, if_true]
      exact State.busWrite_withLatch hidle x off wdata strb
  · obtain ⟨hphase, -⟩ := State.busStep_of_held (Bool.eq_false_of_not_eq_true hr) a
    refine .inr ⟨hphase.trans hidle, ?_⟩
    cases a <;> simp only [State.busStep, State.withLatch_rstN, hr] <;> rfl

/-- Settles O17: of an idle block's turns only an issue replaces the latch, with one that owes
nothing to it; a reset clears it; and the others carry it along. -/
theorem latchIsNeverObservedWhileIdle : Obligations.LatchIsNeverObservedWhileIdle := by
  unfold Obligations.LatchIsNeverObservedWhileIdle
  intro s t x hidle hstep
  obtain ⟨hwf, ⟨hbusy, -⟩ | ⟨-, hnext, rfl⟩ | ⟨a, l, hsched, rfl⟩ | ⟨level, l, hsched, rfl⟩⟩ :=
    step_cases hstep
  · exact nomatch hbusy.symm.trans hidle
  · exact .inr ⟨hidle, step_of_engineNext_idle (s := s.withLatch x) hwf hidle hnext⟩
  · have hturn := step_of_sched_host (s := s.withLatch x) hwf hsched
    rcases State.busStep_withLatch (s := s.popTurn) hidle x a with h | ⟨hphase, h⟩
    · exact .inl (hturn.trans (congrArg _ h))
    · exact .inr ⟨hphase, hturn.trans (congrArg _ h)⟩
  · have hturn := step_of_sched_rstN (s := s.withLatch x) hwf hsched
    cases level
    case false => exact .inl hturn
    case true => exact .inr ⟨hidle, hturn⟩

end Sys2Proof.Machine
end

section
/-! PROOF. 00_scope.md R10, 10_state.md R60: what a completion reads and which results it writes. -/

namespace Sys2Proof.Machine

/-- State `u` with all that a command reads taken from `s`: the parameters, the latch and the
buffer. -/
def State.withInputsOf (u s : State) : State :=
  { u with cfg := s.cfg, latch := s.latch, mem := s.mem, epoch := s.epoch }

theorem State.eq_withInputsOf {s u : State} (hc : u.cfg = s.cfg) (hl : u.latch = s.latch)
    (hm : u.mem = s.mem) (he : u.epoch = s.epoch) : u = u.withInputsOf s := by
  rw [State.withInputsOf, ← hc, ← hl, ← hm, ← he]

/-- The completions of one command in two states, `s'` from `s` and `u'` from `u`: one code, flag
and buffer, and each result register written alike in both or in neither. -/
def State.CompleteAlike (s u s' u' : State) : Prop :=
  u'.code = s'.code ∧ u'.trunc = s'.trunc ∧ u'.mem = s'.mem ∧
    (u'.resLen = s'.resLen ∨ (s'.resLen = s.resLen ∧ u'.resLen = u.resLen)) ∧
    (u'.crcValue = s'.crcValue ∨ (s'.crcValue = s.crcValue ∧ u'.crcValue = u.crcValue)) ∧
    (u'.prs = s'.prs ∨ (s'.prs = s.prs ∧ u'.prs = u.prs))

section
variable (s u : State) (code : ResultCode)

/-- A completion that writes the buffer and `RES_LEN` (PAD and UNPAD, 10_state.md R60). -/
theorem State.completeAlike_resLen (m : Memory) (r : BitVec 13) :
    s.CompleteAlike u (s.completed m r s.crcValue s.prs code false)
      (u.completed m r u.crcValue u.prs code false) :=
  ⟨rfl, rfl, rfl, .inl rfl, .inr ⟨rfl, rfl⟩, .inr ⟨rfl, rfl⟩⟩

/-- A completion that writes `CRC_VALUE` (CRC and VERIFY, 10_state.md R60). -/
theorem State.completeAlike_crcValue (m : Memory) (c : Word) :
    s.CompleteAlike u (s.completed m s.resLen c s.prs code false)
      (u.completed m u.resLen c u.prs code false) :=
  ⟨rfl, rfl, rfl, .inr ⟨rfl, rfl⟩, .inl rfl, .inr ⟨rfl, rfl⟩⟩

/-- A completion that writes no result but `STATUS`. -/
theorem State.completeAlike_status (m : Memory) :
    s.CompleteAlike u (s.completed m s.resLen s.crcValue s.prs code false)
      (u.completed m u.resLen u.crcValue u.prs code false) :=
  ⟨rfl, rfl, rfl, .inr ⟨rfl, rfl⟩, .inr ⟨rfl, rfl⟩, .inr ⟨rfl, rfl⟩⟩

/-- A completion that writes the buffer, `RES_LEN` and `CRC_VALUE` (BUILD, 10_state.md R60). -/
theorem State.completeAlike_resLen_crcValue (m : Memory) (r : BitVec 13) (c : Word)
    (trunc : Bool) : s.CompleteAlike u (s.completed m r c s.prs code trunc)
      (u.completed m r c u.prs code trunc) :=
  ⟨rfl, rfl, rfl, .inl rfl, .inl rfl, .inr ⟨rfl, rfl⟩⟩

/-- A completion that writes `PRS_*` (PARSE, 10_state.md R60). -/
theorem State.completeAlike_prs (m : Memory) (p : ParseRegs) :
    s.CompleteAlike u (s.completed m s.resLen s.crcValue p code false)
      (u.completed m u.resLen u.crcValue p code false) :=
  ⟨rfl, rfl, rfl, .inr ⟨rfl, rfl⟩, .inr ⟨rfl, rfl⟩, .inl rfl⟩

end

/-- A command's checks and results look at nothing but what `withInputsOf` carries over. -/
theorem exec_withInputsOf (i : Instr) (s u : State) : ∃ s' u',
    exec i s = .next s' ∧ exec i (u.withInputsOf s) = .next u' ∧ s.CompleteAlike u s' u' := by
  have hsource := Nat.lt_or_ge s.cfg.bufSize (s.srcAt + s.srcCount)
  cases i
  case pad =>
    by_cases hok : s.padCode = .ok
    · exact ⟨_, _, execPad_of_padCode_ok hok, execPad_of_padCode_ok (s := u.withInputsOf s) hok,
        s.completeAlike_resLen u _ _ _⟩
    · exact ⟨_, _, execPad_of_padCode_ne_ok rfl hok,
        execPad_of_padCode_ne_ok (s := u.withInputsOf s) rfl hok, s.completeAlike_resLen u _ _ _⟩
  case unpad =>
    rcases hsource with hbeyond | hsrc
    · exact ⟨_, _, execUnpad_of_source_beyond hbeyond,
        execUnpad_of_source_beyond (s := u.withInputsOf s) hbeyond, s.completeAlike_resLen u _ _ _⟩
    · by_cases hbad : s.BadPad
      · exact ⟨_, _, execUnpad_of_badPad hsrc hbad,
          execUnpad_of_badPad (s := u.withInputsOf s) hsrc hbad, s.completeAlike_resLen u _ _ _⟩
      · exact ⟨_, _, execUnpad_of_not_badPad hsrc hbad,
          execUnpad_of_not_badPad (s := u.withInputsOf s) hsrc hbad,
          s.completeAlike_resLen u _ _ _⟩
  case crc =>
    rcases hsource with hbeyond | hsrc
    · exact ⟨_, _, execCrc_of_source_beyond hbeyond,
        execCrc_of_source_beyond (s := u.withInputsOf s) hbeyond, s.completeAlike_status u _ _⟩
    · exact ⟨_, _, execCrc_of_source_in_range hsrc,
        execCrc_of_source_in_range (s := u.withInputsOf s) hsrc, s.completeAlike_crcValue u _ _ _⟩
  case verify =>
    rcases hsource with hbeyond | hsrc
    · exact ⟨_, _, execVerify_of_source_beyond hbeyond,
        execVerify_of_source_beyond (s := u.withInputsOf s) hbeyond, s.completeAlike_status u _ _⟩
    · rcases Nat.lt_or_ge s.srcCount 4 with hshort | hlong
      · exact ⟨_, _, execVerify_of_source_short hsrc hshort,
          execVerify_of_source_short (s := u.withInputsOf s) hsrc hshort,
          s.completeAlike_status u _ _⟩
      · exact ⟨_, _, execVerify_of_source_long hsrc hlong,
          execVerify_of_source_long (s := u.withInputsOf s) hsrc hlong,
          s.completeAlike_crcValue u _ _ _⟩
  case build =>
    by_cases hrange : s.buildCode = .rangeError
    · exact ⟨_, _, execBuild_of_rangeError hrange,
        execBuild_of_rangeError (s := u.withInputsOf s) hrange, s.completeAlike_resLen u _ _ _⟩
    · exact ⟨_, _, execBuild_of_ne_rangeError hrange,
        execBuild_of_ne_rangeError (s := u.withInputsOf s) hrange,
        s.completeAlike_resLen_crcValue u _ _ _ _ _⟩
  case parse =>
    exact ⟨_, _, execParse_eq s, execParse_eq (u.withInputsOf s), s.completeAlike_prs u _ _ _⟩

/-- Settles O18: the second state is itself with the inputs of the first. -/
theorem completionDependsOnlyOnLatchBufferAndParameters :
    Obligations.CompletionDependsOnlyOnLatchBufferAndParameters := by
  unfold Obligations.CompletionDependsOnlyOnLatchBufferAndParameters
  intro i s u hc hl hm he
  rw [State.eq_withInputsOf hc hl hm he]
  exact exec_withInputsOf i s u

/-! ### The table of results -/

/-- Settles O44: `execPad_cases` to `execParse_cases` name every completion of every command, and
each meets the table. -/
theorem completionsWriteOnlyTheirOwnResults : Obligations.CompletionsWriteOnlyTheirOwnResults := by
  unfold Obligations.CompletionsWriteOnlyTheirOwnResults
  intro i s
  cases i
  case pad =>
    rcases execPad_cases s with h | h | ⟨-, -, -, h⟩
    all_goals exact ⟨_, h, rfl, by simp⟩
  case unpad =>
    rcases execUnpad_cases s with h | h | ⟨n, -, -, h⟩
    all_goals exact ⟨_, h, rfl, by simp⟩
  case crc =>
    rcases execCrc_cases s with h | ⟨-, h⟩
    all_goals exact ⟨_, h, rfl, by simp⟩
  case verify =>
    rcases execVerify_cases s with h | h | ⟨-, -, code, rfl | rfl, h⟩
    all_goals exact ⟨_, h, rfl, by simp⟩
  case build =>
    rcases execBuild_cases s with h | ⟨-, -, code, trunc, ⟨-, rfl, rfl⟩ | ⟨-, rfl, rfl⟩, h⟩
    all_goals exact ⟨_, h, rfl, by simp⟩
  case parse =>
    rcases execParse_cases s with ⟨code, rfl | rfl | rfl, h⟩ | ⟨d, -, -, -, -, h⟩
    all_goals exact ⟨_, h, rfl, by simp⟩

end Sys2Proof.Machine
end

section
/-! PROOF. 10_state.md R22-R56, 20_memory.md R75: what the host reads at each offset of the register
map, and what its writes there do. -/

namespace Sys2Proof.Machine

/-! ### The value of a register as a number -/

theorem setWidth_eq_ofNat_toNat {n : Nat} (m : Nat) (x : BitVec n) :
    x.setWidth m = BitVec.ofNat m x.toNat := by
  rw [← BitVec.ofNat_toNat]

/-- A parameter that its `PARAM_*` register can hold is read back whole (10_state.md R52-R55). -/
theorem setWidth_ofNat_of_lt {k v : Nat} (h : v < 2 ^ k) :
    (BitVec.ofNat k v).setWidth 32 = BitVec.ofNat 32 v := by
  rw [setWidth_eq_ofNat_toNat, BitVec.toNat_ofNat, Nat.mod_eq_of_lt h]

/-- Appending a bit below a word doubles the word's number and adds the bit. -/
theorem toNat_append_ofBool {n : Nat} (x : BitVec n) (b : Bool) :
    (x ++ BitVec.ofBool b).toNat = 2 * x.toNat + b.toNat := by
  rw [BitVec.toNat_append, Nat.shiftLeft_eq, Nat.mul_comm, ← Nat.two_pow_add_eq_or_of_lt]
  · simp
  · cases b <;> decide

theorem State.ctrlWord_eq_ofNat (s : State) :
    s.ctrlWord = BitVec.ofNat 32 (s.irqEn.toNat + 2 * s.lock.toNat) := by
  have hnum : s.ctrlWord.toNat = s.irqEn.toNat + 2 * s.lock.toNat := by
    rw [State.ctrlWord, toNat_append_ofBool, toNat_append_ofBool]
    simp
    omega
  rw [← hnum, BitVec.ofNat_toNat, BitVec.setWidth_eq]

theorem State.busy_toNat (s : State) : s.busy.toNat = if s.phase = .busy then 1 else 0 := by
  cases hp : s.phase <;> simp [State.busy, hp]

/-- The numbers of the result codes in `STATUS.CODE` (60_exceptions.md R230). -/
theorem ResultCode.bits_toNat {code : ResultCode} {c : Nat}
    (h : (code, c) ∈ [(ResultCode.ok, 0), (.invalidPadding, 1), (.checksumMismatch, 2),
      (.shortFrame, 3), (.frameTooShort, 4), (.bufferTooLarge, 5), (.rangeError, 6),
      (.illegalCmd, 7)]) : code.bits.toNat = c := by
  have hall : ∀ p ∈ [(ResultCode.ok, 0), (.invalidPadding, 1), (.checksumMismatch, 2),
      (.shortFrame, 3), (.frameTooShort, 4), (.bufferTooLarge, 5), (.rangeError, 6),
      (.illegalCmd, 7)], p.1.bits.toNat = p.2 := by decide
  exact hall _ h

theorem State.statusWord_eq_ofNat (s : State) {c : Nat} (hc : s.code.bits.toNat = c) :
    s.statusWord = BitVec.ofNat 32 ((if s.phase = .busy then 1 else 0) + 2 * s.done.toNat +
      4 * s.trunc.toNat + 8 * s.overrun.toNat + 16 * c) := by
  have hnum : s.statusWord.toNat = (if s.phase = .busy then 1 else 0) + 2 * s.done.toNat +
      4 * s.trunc.toNat + 8 * s.overrun.toNat + 16 * c := by
    rw [← s.busy_toNat, State.statusWord, toNat_append_ofBool, toNat_append_ofBool,
      toNat_append_ofBool, toNat_append_ofBool, BitVec.toNat_append, hc]
    simp
    omega
  rw [← hnum, BitVec.ofNat_toNat, BitVec.setWidth_eq]

theorem State.busStep_read_eq_ofNat {s : State} (hr : s.rstN = true) (r : Reg) {n : Nat}
    (h : s.readReg r = BitVec.ofNat 32 n) :
    s.busStep (.read (BitVec.ofNat 13 r.offset)) = { s with rdata := BitVec.ofNat 32 n } := by
  have hoff := r.offset_lt
  have ho : (BitVec.ofNat 13 r.offset).toNat / 4 = r.offset / 4 := by
    rw [BitVec.toNat_ofNat, Nat.mod_eq_of_lt (by omega)]
  rw [s.busStep_read_at hr ho, h, State.setRdata]

/-- Settles O23: register by register, the value it reads is the number the map gives. -/
theorem registerReadsReturnTheMap : Obligations.RegisterReadsReturnTheMap := by
  unfold Obligations.RegisterReadsReturnTheMap
  intro s c hwf hr hc
  have read := fun r n => State.busStep_read_eq_ofNat hr r (n := n)
  have field {n : Nat} (x : BitVec n) := setWidth_eq_ofNat_toNat 32 x
  have whole (x : Word) : x = BitVec.ofNat 32 x.toNat := by
    rw [BitVec.ofNat_toNat, BitVec.setWidth_eq]
  obtain ⟨-, hblk, -, hmin, hmax, -, hbuf⟩ := Config.bounds hwf
  have horder : s.readReg .paramCrc = BitVec.ofNat 32 (if s.cfg.crcOrder = .le then 0 else 1) := by
    rw [State.readReg]
    cases s.cfg.crcOrder <;> rfl
  simp only [List.forall_mem_cons]
  exact ⟨read .id _ rfl, read .ctrl _ s.ctrlWord_eq_ofNat,
    read .status _ (s.statusWord_eq_ofNat (ResultCode.bits_toNat hc)), read .cmd _ (whole _),
    read .srcPtr _ (field _), read .srcLen _ (field _), read .dstPtr _ (field _),
    read .dstCap _ (field _), read .resLen _ (field _), read .crcValue _ (whole _),
    read .cfgDstLo _ (whole _), read .cfgDstHi _ (field _), read .cfgSrcLo _ (whole _),
    read .cfgSrcHi _ (field _), read .prsDstLo _ (whole _), read .prsDstHi _ (field _),
    read .prsSrcLo _ (whole _), read .prsSrcHi _ (field _), read .prsLen _ (field _),
    read .prsPayOff _ (field _), read .prsPayLen _ (field _), read .prsCrc _ (whole _),
    read .paramBlock _ (setWidth_ofNat_of_lt (by omega)),
    read .paramMinf _ (setWidth_ofNat_of_lt (by omega)),
    read .paramMaxf _ (setWidth_ofNat_of_lt (by omega)),
    read .paramBuf _ (setWidth_ofNat_of_lt (by omega)), read .paramCrc _ horder, nofun⟩

/-! ### Writes, and offsets without a register -/

/-- Settles O24: no register lies at or above 0x06C. -/
theorem reservedOffsetsReadZeroAndIgnoreWrites :
    Obligations.ReservedOffsetsReadZeroAndIgnoreWrites := by
  unfold Obligations.ReservedOffsetsReadZeroAndIgnoreWrites
  intro s off hr hlo hhi
  have hnone : regAt (4 * (off.toNat / 4)) = none := regAt_eq_none (by omega)
  refine ⟨?_, fun wdata strb => ?_⟩
  · rw [s.busStep_read_reg hr hhi, hnone]
    rfl
  · rw [s.busStep_write_reg wdata strb hr hhi, hnone]
    rfl

/-- `off[12:2]` is the number of the addressed word (20_memory.md R75). -/
theorem div_four_eq_of_extractLsb'_eq {off off' : BitVec 13}
    (h : off.extractLsb' 2 11 = off'.extractLsb' 2 11) : off.toNat / 4 = off'.toNat / 4 := by
  have hnum := congrArg BitVec.toNat h
  have := off.isLt
  have := off'.isLt
  simp only [BitVec.extractLsb'_toNat, Nat.shiftRight_eq_div_pow] at hnum
  omega

/-- Settles O25: whether an offset lies in the window, and which word it names, depend on
`off[12:2]` alone. -/
theorem lowOffsetBitsAndRegisterStrobesAreIgnored :
    Obligations.LowOffsetBitsAndRegisterStrobesAreIgnored := by
  unfold Obligations.LowOffsetBitsAndRegisterStrobesAreIgnored
  intro s off off' hbits
  have hdiv := div_four_eq_of_extractLsb'_eq hbits
  have hwindow : isWindow off = isWindow off' := by
    rw [isWindow, isWindow, decide_eq_decide]
    omega
  have hword : wordOffset off = wordOffset off' := by
    unfold wordOffset
    omega
  refine ⟨?_, fun wdata strb => ?_, fun hlt wdata strb strb' => ?_⟩
  · simp only [State.busStep, State.busRead, hwindow, hword]
  · simp only [State.busStep, State.busWrite, hwindow, hword]
  · cases hr : s.rstN with
    | false => simp only [State.busStep, hr, Bool.false_eq_true, if_false]
    | true => rw [s.busStep_write_reg wdata strb hr hlt, s.busStep_write_reg wdata strb' hr hlt]

/-- Settles O26: each offset names its register, whose write keeps the bits of the field. -/
theorem operandWritesKeepTheFieldWidth : Obligations.OperandWritesKeepTheFieldWidth := by
  unfold Obligations.OperandWritesKeepTheFieldWidth
  intro s w strb hr
  rw [← setWidth_eq_ofNat_mod, ← setWidth_eq_ofNat_mod]
  exact ⟨s.busStep_write_at (r := .srcPtr) w strb hr rfl,
    s.busStep_write_at (r := .srcLen) w strb hr rfl,
    s.busStep_write_at (r := .dstPtr) w strb hr rfl,
    s.busStep_write_at (r := .dstCap) w strb hr rfl⟩

/-- The two registers of an address hold its wire bytes (10_state.md R42). -/
theorem Addr.bytes_ofRegs (lo : Word) (hi : BitVec 16) :
    (Addr.ofRegs lo hi).bytes = le32 lo ++ (le32 (hi.setWidth 32)).take 2 := by
  have hbyte (i : Nat) : hi.extractLsb' (8 * i) 8 = byteOf (hi.setWidth 32) i := by
    apply BitVec.eq_of_toNat_eq
    have hwide : hi.toNat % 2 ^ 32 = hi.toNat := Nat.mod_eq_of_lt (by omega)
    rw [byteOf_toNat, BitVec.toNat_setWidth, hwide, BitVec.extractLsb'_toNat,
      Nat.shiftRight_eq_div_pow]
  simp only [Addr.ofRegs, Addr.bytes, le32, List.take, List.cons_append, List.nil_append]
  rw [← hbyte 0, ← hbyte 1]

/-- Settles O29: the write is `State.issue`, whose latch is `State.takeLatch`. -/
theorem commandWriteWhileIdleIssues : Obligations.CommandWriteWhileIdleIssues := by
  unfold Obligations.CommandWriteWhileIdleIssues
  intro s w strb hr hidle
  exact ⟨s.issue w,
    (s.busStep_write_at (r := .cmd) w strb hr rfl).trans (State.writeCmd_of_idle hidle w), rfl, rfl,
    rfl, rfl, rfl, rfl, Addr.bytes_ofRegs .., Addr.bytes_ofRegs ..⟩

/-- The registers that a write leaves alone (10_state.md R22, R23), by the number of their word. -/
theorem State.writeReg_readOnly (s : State) (w : Word) {r : Reg}
    (h : r.offset / 4 = 0 ∨ r.offset / 4 = 8 ∨ r.offset / 4 = 9 ∨ 14 ≤ r.offset / 4) :
    s.writeReg r w = s := by
  cases r
  case ctrl | status | cmd | srcPtr | srcLen | dstPtr | dstCap => exact absurd h (by decide)
  case cfgDstLo | cfgDstHi | cfgSrcLo | cfgSrcHi => exact absurd h (by decide)
  all_goals rfl

/-- Settles O32: an offset there names a read-only register, or none. -/
theorem readOnlyRegistersIgnoreWrites : Obligations.ReadOnlyRegistersIgnoreWrites := by
  unfold Obligations.ReadOnlyRegistersIgnoreWrites
  intro s off w strb hr hoff
  rw [s.busStep_write_reg w strb hr (by omega)]
  cases hreg : regAt (4 * (off.toNat / 4)) with
  | none => rfl
  | some r =>
    have ho := offset_of_regAt hreg
    exact s.writeReg_readOnly w (by omega)

end Sys2Proof.Machine
end

section
/-! PROOF. 20_memory.md R72, R73, R78: the buffer window while idle and while busy. -/

namespace Sys2Proof.Machine

section
variable {s : State} (hr : s.rstN = true) (hidle : s.phase = .idle)
include hr hidle

theorem State.busStep_read_window_idle {off : BitVec 13} (h : 0x1000 ≤ off.toNat) :
    s.busStep (.read off) = s.setRdata (s.windowWord (4 * ((off.toNat - 0x1000) / 4))) := by
  rw [s.busStep_read_window hr h, if_neg (by simp [State.busy, hidle])]

theorem State.busStep_write_window_idle {off : BitVec 13} (h : 0x1000 ≤ off.toNat) (wdata : Word)
    (strb : BitVec 4) : s.busStep (.write off wdata strb) =
      s.writeWindow (4 * ((off.toNat - 0x1000) / 4)) wdata strb := by
  rw [s.busStep_write_window wdata strb hr h, if_neg (by simp [State.busy, hidle])]

end

/-- The offset of window byte `k` on the bus. -/
theorem toNat_window_offset {k : Nat} (h : k < 0x1000) :
    (BitVec.ofNat 13 (0x1000 + k)).toNat = 0x1000 + k := by
  rw [BitVec.toNat_ofNat, Nat.mod_eq_of_lt (by omega)]

/-- A word is the number of its four bytes, the first the least significant. -/
theorem toNat_append_lanes (f : Nat → Byte) :
    (f 3 ++ f 2 ++ f 1 ++ f 0 : BitVec 32).toNat =
      (f 0).toNat + 2 ^ 8 * (f 1).toNat + 2 ^ 16 * (f 2).toNat + 2 ^ 24 * (f 3).toNat := by
  have hlane := fun i (hi : i < 4) => toNat_lane f hi
  rw [← hlane 0 (by omega), ← hlane 1 (by omega), ← hlane 2 (by omega), ← hlane 3 (by omega)]
  have := (f 3 ++ f 2 ++ f 1 ++ f 0 : BitVec 32).isLt
  omega

theorem State.windowByte_toNat (s : State) (j i : Nat) : (s.windowByte j i).toNat =
    if j + i < s.cfg.bufSize then (s.readByte (j + i)).toNat else 0 := by
  unfold State.windowByte
  split <;> rfl

/-- Settles O33: the word read is `State.windowWord`, the number of its four lanes. -/
theorem windowReadHasLittleEndianLanes : Obligations.WindowReadHasLittleEndianLanes := by
  unfold Obligations.WindowReadHasLittleEndianLanes
  intro s k lane hr hidle hk hlane
  have hoff := toNat_window_offset hk
  have hnum : (s.windowWord (4 * (k / 4))).toNat =
      lane 0 + 2 ^ 8 * lane 1 + 2 ^ 16 * lane 2 + 2 ^ 24 * lane 3 := by
    rw [State.windowWord, toNat_append_lanes (s.windowByte (4 * (k / 4)))]
    simp only [State.windowByte_toNat, hlane]
  rw [State.busStep_read_window_idle hr hidle (by omega), hoff, Nat.add_sub_cancel_left, ← hnum,
    BitVec.ofNat_toNat, BitVec.setWidth_eq, State.setRdata]

section
variable (s : State) (j : Nat) (wdata : Word) (strb : BitVec 4)

/-- A strobed lane below `BUF_SIZE` is stored. -/
theorem State.readByte_writeWindow_lane {i : Nat} (hi : i < 4) (hs : strb.getLsbD i = true)
    (hb : j + i < s.cfg.bufSize) :
    (s.writeWindow j wdata strb).readByte (j + i) = byteOf wdata i := by
  have hcases : i = 0 ∨ i = 1 ∨ i = 2 ∨ i = 3 := by omega
  rw [State.readByte_writeWindow]
  rcases hcases with rfl | rfl | rfl | rfl
  · rw [if_neg (by omega), if_neg (by omega), if_neg (by omega), if_pos ⟨hs, rfl, hb⟩]
  · rw [if_neg (by omega), if_neg (by omega), if_pos ⟨hs, rfl, hb⟩]
  · rw [if_neg (by omega), if_pos ⟨hs, rfl, hb⟩]
  · rw [if_pos ⟨hs, rfl, hb⟩]

theorem State.readByte_writeWindow_other {a : Nat}
    (h : ¬ ∃ i, i < 4 ∧ strb.getLsbD i = true ∧ a = j + i ∧ a < s.cfg.bufSize) :
    (s.writeWindow j wdata strb).readByte a = s.readByte a := by
  have hlane (i : Nat) (hi : i < 4) :
      ¬ (strb.getLsbD i = true ∧ a = j + i ∧ a < s.cfg.bufSize) := fun hstored => h ⟨i, hi, hstored⟩
  rw [State.readByte_writeWindow, if_neg (hlane 3 (by omega)), if_neg (hlane 2 (by omega)),
    if_neg (hlane 1 (by omega)), if_neg (hlane 0 (by omega))]

end

/-- Settles O34: the write is `State.writeWindow`, lane by lane. -/
theorem windowWriteHonoursTheStrobes : Obligations.WindowWriteHonoursTheStrobes := by
  unfold Obligations.WindowWriteHonoursTheStrobes
  intro s k wdata strb hr hidle hk
  have hoff := toNat_window_offset hk
  refine ⟨s.writeWindow (4 * (k / 4)) wdata strb, ?_, s.writeWindow_eq .., fun i hi hs hb => ?_,
    fun a hother => s.readByte_writeWindow_other _ _ _ hother⟩
  · rw [State.busStep_write_window_idle hr hidle (by omega), hoff, Nat.add_sub_cancel_left]
  · rw [s.readByte_writeWindow_lane _ _ _ hi hs hb, byteOf_toNat]

/-- Settles O35: both accesses take the busy branch, which records the breach. -/
theorem windowIsClosedWhileBusy : Obligations.WindowIsClosedWhileBusy := by
  unfold Obligations.WindowIsClosedWhileBusy
  intro s off hr hbusy hoff
  have hb : s.busy = true := s.busy_iff.mpr hbusy
  exact ⟨(s.busStep_read_window hr hoff).trans (if_pos hb),
    fun wdata strb => (s.busStep_write_window wdata strb hr hoff).trans (if_pos hb)⟩

end Sys2Proof.Machine
end

section
/-! PROOF. 30_encoding.md R112: the pseudo-operations WRB and RDB, run while idle, store and return
exactly the bytes of their range. -/

namespace Sys2Proof.Machine

/-! ### The window words of a range -/

/-- The words of a range start on a multiple of 4, the last one below the end of the range. -/
theorem Script.mem_words {k n j : Nat} (h : j ∈ Script.words k n) : 4 ∣ j ∧ j < k + n := by
  unfold Script.words at h
  split at h
  · cases h
  · obtain ⟨q, hq, rfl⟩ := List.mem_map.mp h
    have := List.mem_range.mp hq
    exact ⟨Nat.dvd_mul_right .., by omega⟩

/-- Every byte of a range lies in one of its words. -/
theorem Script.word_mem_words {k n i : Nat} (h : i < n) :
    4 * ((k + i) / 4) ∈ Script.words k n := by
  rw [Script.words, if_neg (by omega), List.mem_map]
  exact ⟨(k + i) / 4 - k / 4, List.mem_range.mpr (by omega), by omega⟩

/-- `BUF_SIZE` is a whole number of window words (00_scope.md R5). -/
theorem Config.four_dvd_bufSize {c : Config} (h : c.wellFormed = true) : 4 ∣ c.bufSize := by
  obtain ⟨-, -, -, -, -, ⟨e, he⟩, hlo, -⟩ := c.wellFormed_iff.mp h
  rw [he] at hlo ⊢
  have he2 : 2 ≤ e := by
    by_contra hsmall
    have hpow := Nat.pow_le_pow_right (n := 2) (by decide) (show e ≤ 1 by omega)
    omega
  exact Nat.pow_dvd_pow 2 he2

/-- The words of a range inside the buffer lie inside it as a whole, and in the window. -/
theorem Script.words_in_buffer {c : Config} (hwf : c.wellFormed = true) {k n : Nat}
    (hin : k + n ≤ c.bufSize) :
    ∀ j ∈ Script.words k n, 4 ∣ j ∧ j < 0x1000 ∧ j + 3 < c.bufSize := by
  intro j hj
  obtain ⟨-, -, -, -, -, -, hbuf⟩ := Config.bounds hwf
  obtain ⟨hdvd, hlt⟩ := Script.mem_words hj
  have := Config.four_dvd_bufSize hwf
  omega

/-! ### RDB -/

section
variable (s : State)

theorem State.memRead_append (a m n : Nat) :
    s.memRead a (m + n) = s.memRead a m ++ s.memRead (a + m) n := by
  simp [State.memRead, List.range_add, Nat.add_assoc]

/-- Reading word after word reads the whole region. -/
theorem State.flatMap_memRead (a m : Nat) :
    (List.range m).flatMap (fun q => s.memRead (a + 4 * q) 4) = s.memRead a (4 * m) := by
  induction m with
  | zero => rfl
  | succ m ih =>
    rw [List.range_succ, List.flatMap_append, ih, Nat.mul_succ, State.memRead_append]
    simp

theorem State.slice_memRead {a n x m : Nat} (h : x + m ≤ n) :
    slice (s.memRead a n) x (x + m) = s.memRead (a + x) m := by
  obtain ⟨d, rfl⟩ := Nat.exists_eq_add_of_le h
  rw [slice, Nat.add_assoc, State.memRead_append, State.memRead_append,
    List.drop_left' (s.length_memRead ..), Nat.add_sub_cancel_left,
    List.take_left' (s.length_memRead ..)]

/-- The lanes of the words that cover a range give back its bytes (20_memory.md R73). -/
theorem State.laneBytes_words {k n : Nat}
    (h : ∀ j ∈ Script.words k n, j + 3 < s.cfg.bufSize) :
    Script.laneBytes k n ((Script.words k n).map s.windowWord) = s.memRead k n := by
  by_cases hn : n = 0
  · subst hn
    simp [Script.laneBytes, slice, State.memRead]
  have hlanes : ((Script.words k n).map s.windowWord).flatMap le32 =
      s.memRead (4 * (k / 4)) (4 * ((k + n + 3) / 4 - k / 4)) := by
    rw [← State.flatMap_memRead, List.flatMap_map]
    have hwords : ∀ j ∈ Script.words k n, le32 (s.windowWord j) = s.memRead j 4 :=
      fun j hj => s.le32_windowWord (h j hj)
    rw [List.flatMap_congr hwords, Script.words, if_neg hn, List.flatMap_map]
    simp only [Nat.mul_add]
  rw [Script.laneBytes, hlanes, State.slice_memRead s (by omega), Nat.div_add_mod]

end

/-- Settles O59: the reads return the window words of the range, whose lanes are its bytes. -/
theorem scriptReadBytesReturnsTheBytes : Obligations.ScriptReadBytesReturnsTheBytes := by
  unfold Obligations.ScriptReadBytesReturnsTheBytes
  intro s k n hr hidle hwf hin
  have hwords := Script.words_in_buffer hwf hin
  obtain ⟨hread, v, hstate⟩ := Script.readWords_window (Script.words k n) s hr hidle
    fun j hj =>
      have ⟨hdvd, hwin, _⟩ := hwords j hj
      ⟨hdvd, hwin⟩
  refine ⟨?_, v, hstate⟩
  have hbytes := s.laneBytes_words (k := k) (n := n) fun j hj =>
    have ⟨_, _, hbuf⟩ := hwords j hj
    hbuf
  rw [Script.runRdb, Script.rdb, hread, hbytes]
  rfl

/-! ### WRB -/

theorem byteOf_append_lanes (f : Nat → Byte) {i : Nat} (hi : i < 4) :
    byteOf (f 3 ++ f 2 ++ f 1 ++ f 0 : BitVec 32) i = f i := by
  apply BitVec.eq_of_toNat_eq
  rw [byteOf_toNat, toNat_lane f hi]

theorem getLsbD_append_strobes (f : Nat → Bool) {i : Nat} (hi : i < 4) :
    (BitVec.ofBool (f 3) ++ BitVec.ofBool (f 2) ++ BitVec.ofBool (f 1) ++
      BitVec.ofBool (f 0)).getLsbD i = f i := by
  have hcases : i = 0 ∨ i = 1 ∨ i = 2 ∨ i = 3 := by omega
  rw [BitVec.getLsbD_append, BitVec.getLsbD_append, BitVec.getLsbD_append]
  rcases hcases with rfl | rfl | rfl | rfl <;> simp

/-- The byte that WRB has for the offset `a`, if any: lane `t` of word `j` is the one at `j + t`. -/
def Script.byteAt (k : Nat) (bs : List Byte) (a : Nat) : Option Byte := Script.lane k bs a 0

theorem Script.byteAt_add {k : Nat} {bs : List Byte} {i : Nat} (h : i < bs.length) :
    Script.byteAt k bs (k + i) = some bs[i] := by
  simp [Script.byteAt, Script.lane, h]

theorem Script.byteAt_outside {k : Nat} {bs : List Byte} {a : Nat}
    (h : a < k ∨ k + bs.length ≤ a) : Script.byteAt k bs a = none := by
  unfold Script.byteAt Script.lane
  split
  · exact List.getElem?_eq_none (by omega)
  · rfl

section
variable {s : State} (hr : s.rstN = true) (hidle : s.phase = .idle) (k : Nat) (bs : List Byte)
  {j : Nat} (hdvd : 4 ∣ j) (hwin : j < 0x1000)
include hr hidle hdvd hwin

/-- One write of WRB is a window write of its word. -/
theorem State.busStep_wrbWord : ∃ wdata strb,
    s.busStep (Script.wrbWord k bs j) = s.writeWindow j wdata strb ∧
    ∀ i, i < 4 → byteOf wdata i = (Script.byteAt k bs (j + i)).getD 0 ∧
      strb.getLsbD i = (Script.byteAt k bs (j + i)).isSome := by
  have hoff := toNat_window_offset hwin
  refine ⟨_, _, ?_, fun i hi =>
    ⟨byteOf_append_lanes (fun t => (Script.lane k bs j t).getD 0) hi,
      getLsbD_append_strobes (fun t => (Script.lane k bs j t).isSome) hi⟩⟩
  have hword : 4 * ((0x1000 + j - 0x1000) / 4) = j := by omega
  rw [Script.wrbWord, State.busStep_write_window_idle hr hidle (by omega), hoff, hword]

/-- One write of WRB stores the bytes it has for its word, and no other. -/
theorem State.readByte_busStep_wrbWord (hbuf : j + 3 < s.cfg.bufSize) (a : Nat) :
    (s.busStep (Script.wrbWord k bs j)).readByte a =
      if 4 * (a / 4) = j then (Script.byteAt k bs a).getD (s.readByte a) else s.readByte a := by
  obtain ⟨wdata, strb, hstep, hlanes⟩ := State.busStep_wrbWord hr hidle k bs hdvd hwin
  rw [hstep]
  split
  · next hj =>
    obtain ⟨i, rfl⟩ := Nat.exists_eq_add_of_le (show j ≤ a by omega)
    have hi : i < 4 := by omega
    obtain ⟨hbyte, hstrobe⟩ := hlanes i hi
    cases hb : Script.byteAt k bs (j + i) with
    | none =>
      rw [hb, Option.isSome_none] at hstrobe
      refine s.readByte_writeWindow_other _ _ _ ?_
      rintro ⟨i', -, hs, heq, -⟩
      rw [← Nat.add_left_cancel heq] at hs
      exact nomatch hs.symm.trans hstrobe
    | some b =>
      rw [hb, Option.isSome_some] at hstrobe
      rw [s.readByte_writeWindow_lane _ _ _ hi hstrobe (by omega), hbyte, hb]
      rfl
  · next hj => exact s.readByte_writeWindow_other _ _ _ fun ⟨i, hi, _, heq, _⟩ => hj (by omega)

end

/-- The writes of WRB, word after word, store the bytes it has for these words and change nothing
else. -/
theorem Script.foldl_wrbWord (k : Nat) (bs : List Byte) (L : List Nat) : ∀ s : State,
    s.rstN = true → s.phase = .idle →
    (∀ j ∈ L, 4 ∣ j ∧ j < 0x1000 ∧ j + 3 < s.cfg.bufSize) →
    (∃ m, (L.map (Script.wrbWord k bs)).foldl State.busStep s = { s with mem := m }) ∧
    ∀ a, ((L.map (Script.wrbWord k bs)).foldl State.busStep s).readByte a =
      if 4 * (a / 4) ∈ L then (Script.byteAt k bs a).getD (s.readByte a) else s.readByte a := by
  induction L with
  | nil => exact fun s _ _ _ => ⟨⟨s.mem, rfl⟩, fun _ => rfl⟩
  | cons j L ih =>
    intro s hr hidle hL
    obtain ⟨hdvd, hwin, hbuf⟩ := hL j List.mem_cons_self
    obtain ⟨wdata, strb, hstep, -⟩ := State.busStep_wrbWord hr hidle k bs hdvd hwin
    have hmem := hstep.trans (s.writeWindow_eq j wdata strb)
    have hbyte := State.readByte_busStep_wrbWord hr hidle k bs hdvd hwin hbuf
    rw [List.map_cons, List.foldl_cons]
    rw [hmem] at hbyte ⊢
    obtain ⟨⟨m, hfold⟩, hrest⟩ := ih { s with mem := (s.writeWindow j wdata strb).mem } hr hidle
      fun j' hj' => hL j' (List.mem_cons_of_mem _ hj')
    refine ⟨⟨m, hfold⟩, fun a => ?_⟩
    rw [hrest, hbyte]
    by_cases hmore : 4 * (a / 4) ∈ L
    · rw [if_pos hmore, if_pos (List.mem_cons_of_mem j hmore)]
      cases Script.byteAt k bs a with
      | none => exact ite_self _
      | some b => rfl
    · simp only [List.mem_cons, hmore, or_false, if_false]

/-- Settles O36: the words of the range hold every byte of it, and WRB has a byte for no other
offset. -/
theorem scriptWriteBytesStoresExactlyTheBytes :
    Obligations.ScriptWriteBytesStoresExactlyTheBytes := by
  unfold Obligations.ScriptWriteBytesStoresExactlyTheBytes
  intro s k bs hr hidle hwf hin
  obtain ⟨⟨m, hfold⟩, hbyte⟩ := Script.foldl_wrbWord k bs (Script.words k bs.length) s hr hidle
    (Script.words_in_buffer hwf hin)
  refine ⟨_, rfl, ?_, fun i hi => ?_, fun a ha => ?_⟩
  · rw [Script.wrb, hfold]
  · rw [Script.wrb, hbyte, if_pos (Script.word_mem_words hi), Script.byteAt_add hi]
    rfl
  · rw [Script.wrb, hbyte, Script.byteAt_outside ha, Option.getD_none, ite_self]

end Sys2Proof.Machine
end

section
/-! PROOF. 42_frame.md R197: a frame cut at `MAX_FRAME` does not parse. -/

namespace Sys2Proof.Machine

/-- Settles O50: the written region holds `MAX_FRAME` bytes and declares more. -/
theorem truncatedFrameNeverParses : Obligations.TruncatedFrameNeverParses := by
  unfold Obligations.TruncatedFrameNeverParses
  intro s t hwf hbuild htrunc
  obtain ⟨rfl, hdst, hlong⟩ := eq_afterBuild_of_trunc hbuild htrunc
  exact ⟨(State.afterBuild_resLen_toNat hwf).trans (State.frameCount_of_truncated hwf hlong), _,
    execParse_sourceIsOutput_afterBuild_of_truncated hwf hdst hlong, rfl, rfl⟩

end Sys2Proof.Machine
end

section
/-! PROOF. 41_checksum.md R160, R161, R168: the reference CRC-32, what VERIFY makes of a corrupted
field, and that every checksum is `CRC_FN` of its field alone. -/

namespace Sys2Proof.Machine

/-! ### The reference CRC-32 -/

/-- Registers that differ stay different whatever bytes follow. -/
theorem foldl_crcByte_injective (post : List Byte) : ∀ {c d : Word},
    post.foldl crcByte c = post.foldl crcByte d → c = d := by
  induction post with
  | nil => exact fun h => h
  | cons x post ih => exact fun h => crcByte_injective_register x (ih h)

/-- Settles O54: the byte changes the register, and no later step merges two registers. -/
theorem referenceCrcDetectsAnySingleByteChange :
    Obligations.ReferenceCrcDetectsAnySingleByteChange := by
  unfold Obligations.ReferenceCrcDetectsAnySingleByteChange
  intro pre post x y hne heq
  have hfold := (BitVec.xor_left_inj _).mp heq
  rw [List.foldl_append, List.foldl_append, List.foldl_cons, List.foldl_cons] at hfold
  exact hne (crcByte_injective_byte _ (foldl_crcByte_injective post hfold))

theorem crcFn_of_reference {c : Config} (h : c.crcFn = .reference) (b : List Byte) :
    crcFn c b = crcReference b := by
  rw [crcFn, h]

/-- Settles O55: the reference instance runs on the five sequences; `crcFn` is that instance where
it is chosen. -/
theorem referenceCrcGivesTheCheckValues : Obligations.ReferenceCrcGivesTheCheckValues := by
  unfold Obligations.ReferenceCrcGivesTheCheckValues
  have hcheck :
      crcReference [0x31, 0x32, 0x33, 0x34, 0x35, 0x36, 0x37, 0x38, 0x39] = 0xCBF43926 := by
    decide +kernel
  exact ⟨hcheck, rfl, by decide +kernel, by decide +kernel, by decide +kernel,
    (crcFn_of_reference (c := Config.defaults) rfl _).trans hcheck,
    fun c b h => crcFn_of_reference h b⟩

/-! ### VERIFY of a corrupted field -/

/-- A VERIFY that completes `OK` found its region in range, with room for the field, and the two
checksums equal. -/
theorem eq_of_execVerify_ok {s t : State} (h : execVerify s = .next t) (hok : t.code = .ok) :
    s.srcAt + s.srcCount ≤ s.cfg.bufSize ∧ 4 ≤ s.srcCount ∧
      s.recomputedChecksum.toNat = s.storedChecksum (s.srcAt + (s.srcCount - 4)) ∧
      t.crcValue = s.recomputedChecksum := by
  rcases Nat.lt_or_ge s.cfg.bufSize (s.srcAt + s.srcCount) with hbeyond | hsrc
  · cases (execVerify_of_source_beyond hbeyond).symm.trans h
    cases hok
  rcases Nat.lt_or_ge s.srcCount 4 with hshort | hlen
  · cases (execVerify_of_source_short hsrc hshort).symm.trans h
    cases hok
  by_cases hsum : s.recomputedChecksum.toNat = s.storedChecksum (s.srcAt + (s.srcCount - 4))
  · cases (execVerify_of_checksum_eq hsrc hlen hsum).symm.trans h
    exact ⟨hsrc, hlen, hsum, rfl⟩
  · cases (execVerify_of_checksum_ne hsrc hlen hsum).symm.trans h
    cases hok

/-- Two checksum fields that differ in a byte hold different values. -/
theorem State.readByte_eq_of_storedChecksum_eq {s u : State} {a : Nat} (hc : u.cfg = s.cfg)
    (h : u.storedChecksum a = s.storedChecksum a) :
    ∀ i, i < 4 → u.readByte (a + i) = s.readByte (a + i) := by
  have hvalue :
      cksValue s.cfg.crcOrder (u.memRead a 4) = cksValue s.cfg.crcOrder (s.memRead a 4) := by
    apply BitVec.eq_of_toNat_eq
    rw [State.cksValue_memRead, ← h, ← State.cksValue_memRead, hc]
  have hbytes := cksValue_inj _ (u.length_memRead a 4) (s.length_memRead a 4) hvalue
  intro i hi
  have hbyte := congrArg (·[i]?) hbytes
  simpa [State.memRead, hi] using hbyte

/-- Settles O53: the body is the same, so the recomputed checksum is; the field differs, so the
stored one does. -/
theorem corruptedChecksumFieldIsRejected : Obligations.CorruptedChecksumFieldIsRejected := by
  unfold Obligations.CorruptedChecksumFieldIsRejected
  rintro s u t hverify hok hc hl hbody ⟨i, hi, hne⟩
  obtain ⟨hsrc, hlen, hsum, hvalue⟩ := eq_of_execVerify_ok hverify hok
  have hsrcAt : u.srcAt = s.srcAt := congrArg (·.srcPtr.toNat) hl
  have hsrcCount : u.srcCount = s.srcCount := congrArg (·.srcLen.toNat) hl
  have hsame : u.recomputedChecksum = s.recomputedChecksum := by
    rw [State.recomputedChecksum, hc, hsrcAt, hsrcCount, State.memRead_congr hbody,
      ← State.recomputedChecksum]
  have hdiffers : u.recomputedChecksum.toNat ≠ u.storedChecksum (u.srcAt + (u.srcCount - 4)) := by
    rw [hsame, hsum, hsrcAt, hsrcCount]
    intro hstored
    have hfield := State.readByte_eq_of_storedChecksum_eq hc hstored.symm i hi
    rw [Nat.add_assoc] at hfield
    exact hne hfield
  refine ⟨_, execVerify_of_checksum_ne (by rwa [hsrcAt, hsrcCount, hc]) (by rwa [hsrcCount])
    hdiffers, rfl, ?_⟩
  rw [hvalue, ← hsame]
  rfl

/-! ### A checksum is `CRC_FN` of its field -/

/-- The completion of a command that checksums the first `n` bytes of its region: `CRC_VALUE` is
`CRC_FN` of them, but for a BUILD whose frame does not fit the buffer. -/
theorem exec_publishes_checksum {s : State} {i : Instr} {n : Nat}
    (hfield : (i, s.srcCount) ∈ [(Instr.crc, n), (.verify, n + 4), (.build, n)])
    (hsrc : s.srcAt + s.srcCount ≤ s.cfg.bufSize) : ∃ t, exec i s = .next t ∧
      (t.code ≠ .rangeError → t.crcValue = crcFn s.cfg (s.memRead s.srcAt n)) ∧
      (t.code = .rangeError → i = .build) := by
  simp only [List.mem_cons, Prod.mk.injEq, List.not_mem_nil, or_false] at hfield
  rcases hfield with ⟨rfl, rfl⟩ | ⟨rfl, hcount⟩ | ⟨rfl, rfl⟩
  · exact ⟨_, execCrc_of_source_in_range hsrc, fun _ => rfl, nofun⟩
  · have hsum : s.recomputedChecksum = crcFn s.cfg (s.memRead s.srcAt n) := by
      rw [State.recomputedChecksum, hcount, Nat.add_sub_cancel]
    refine ⟨_, execVerify_of_source_long hsrc (by omega), fun _ => hsum, ?_⟩
    rw [State.completed_code]
    split <;> exact nofun
  · by_cases hrange : s.buildCode = .rangeError
    · exact ⟨_, execBuild_of_rangeError hrange, fun hne => absurd rfl hne, fun _ => rfl⟩
    · exact ⟨_, execBuild_of_ne_rangeError hrange, fun _ => rfl, fun _ => rfl⟩

/-- Settles O56: each of the two completions publishes `CRC_FN` of its own field, and the fields are
equal. -/
theorem checksumIsSeededAfresh : Obligations.ChecksumIsSeededAfresh := by
  unfold Obligations.ChecksumIsSeededAfresh
  intro s u i j n _ hc hi hj hs hu hsame
  obtain ⟨s', hexec, hvalue, hrange⟩ := exec_publishes_checksum hi hs
  obtain ⟨u', hexec', hvalue', hrange'⟩ := exec_publishes_checksum hj hu
  refine ⟨s', u', hexec, hexec', fun hok hok' => ⟨?_, hvalue hok⟩, hrange, hrange'⟩
  rw [hvalue hok, hvalue' hok', hc, State.memRead_congr hsame]

end Sys2Proof.Machine
end
